-- ==== Sys2Proof/Word.lean ====
section
/-!
DEFINITION. The word types of the block (00_scope.md R7): every value is unsigned, 32-bit arithmetic wraps.
-/

namespace Sys2Proof

/-- A 32-bit value: a register, a target address, a data register's contents. -/
abbrev Word := BitVec 32

/-- A 16-bit value: a halfword datum, a vendor or device ID. -/
abbrev Half := BitVec 16

/-- One byte of a host stream, an operation code. -/
abbrev Byte := BitVec 8

end Sys2Proof
end

