-- ==== Sys2Proof/Config.lean ====
section
/-!
DEFINITION. What an implementation fixes (00_scope.md R6): the parameters as one record of plain data, the defaults
the spec gives, and the opaque constants that stand for the OPEN parameters (92_eei_decisions.md section 2) and for the
TDO bits the target returns (10_state.md R44). A function parameter over 32-bit values is held as a finite table.
-/

namespace Sys2Proof

/-- The command-type tag of a flash descriptor (43_flash_probe.md R145). -/
inductive FlashKind where
  | amd
  | sst
  | bsc
  | scs
  | spi
deriving DecidableEq, Repr

/-- The two SPI host controller layouts (10_state.md R34, 45_flash_spi.md R171). -/
inductive SpiFamily where
  | atheros
  | broadcom
deriving DecidableEq, Repr

/-- P_TARGET_ENDIAN (20_memory.md R52). -/
inductive Endian where
  | little
  | big
deriving DecidableEq, Repr, Inhabited

/-- P_IR_LENGTH_TABLE_VALUES: "4, 5, 7, or 8 bits in the known processor table" (00_scope.md R6). -/
inductive TableIrLength where
  | four
  | five
  | seven
  | eight
deriving DecidableEq, Repr

/-- A processor descriptor; the name is text the block ignores. -/
structure ProcDescriptor where
  idcode : Word
  irLength : TableIrLength
  name : String
deriving DecidableEq, Repr

/-- One (count, size) pair of a flash descriptor (43_flash_probe.md R145). -/
structure Region where
  count : Word
  size : Word
deriving DecidableEq, Repr

/-- "up to 4 (block-count, block-size) region pairs": a list of 0 to 4 of them (43_flash_probe.md R145). -/
inductive Regions where
  | zero
  | one (r1 : Region)
  | two (r1 r2 : Region)
  | three (r1 r2 r3 : Region)
  | four (r1 r2 r3 r4 : Region)
deriving DecidableEq, Repr

/-- The pairs in their order. -/
def Regions.list : Regions → List Region
  | .zero => []
  | .one r1 => [r1]
  | .two r1 r2 => [r1, r2]
  | .three r1 r2 r3 => [r1, r2, r3]
  | .four r1 r2 r3 r4 => [r1, r2, r3, r4]

/-- A flash descriptor (43_flash_probe.md R145). -/
structure FlashDescriptor where
  vendor : Half
  device : Half
  size : Word
  kind : FlashKind
  name : String
  regions : Regions
deriving DecidableEq, Repr

/-- An area descriptor (43_flash_probe.md R146): the class is a flash size, the start an absolute address. -/
structure AreaDescriptor where
  capacity : Word
  name : String
  start : Word
  length : Word
deriving DecidableEq, Repr

/-- P_EJTAG_IR (30_encoding.md R77), with the codes only a raw TAP_SETIR may issue (R78). BYPASS is all ones of the
IR length and is computed. -/
structure IrCodes where
  idcode : Word
  impcode : Word
  address : Word
  data : Word
  control : Word
  all : Word
  ejtagboot : Word
  normalboot : Word
  fastdata : Word
deriving DecidableEq, Repr

/-- P_CTRL_BITS: bit positions of the EJTAG CONTROL register (30_encoding.md R79); `dsz` is the lower bit of the
two-bit size field. -/
structure ControlBits where
  perrst : Nat
  prnw : Nat
  pracc : Nat
  dmaacc : Nat
  prrst : Nat
  proben : Nat
  probtrap : Nat
  jtagbrk : Nat
  dstrt : Nat
  derr : Nat
  drwn : Nat
  dsz : Nat
  dm : Nat
deriving DecidableEq, Repr

/-- P_IMP_BITS (30_encoding.md R81): the lowest bit of the 3-bit EJTAGVER field, and NODMA. -/
structure ImpBits where
  version : Nat
  nodma : Nat
deriving DecidableEq, Repr

/-- P_NOR_CMD of an AMD-style command set (30_encoding.md R84, R85): the two unlock offsets, in 16-bit words, and the
datum of each cycle. -/
structure AmdCommands where
  unlock1Offset : Word
  unlock2Offset : Word
  unlock1 : Half
  unlock2 : Half
  autoselect : Half
  eraseSetup : Half
  sectorErase : Half
  program : Half
  bypassEnter : Half
  bypassProgram : Half
  bypassExit1 : Half
  bypassExit2 : Half
  reset : Half
deriving DecidableEq, Repr

/-- P_NOR_CMD of the BSC/SCS command set (30_encoding.md R86). -/
structure BscCommands where
  clearStatus : Half
  unlockSetup : Half
  confirm : Half
  eraseSetup : Half
  readStatus : Half
  programSetup : Half
  readId : Half
  readArray : Half
deriving DecidableEq, Repr

/-- The identification read offsets in bytes (30_encoding.md R87) and the ready bits (R88). -/
structure NorReads where
  vendor : Word
  device : Word
  subHigh : Word
  subLow : Word
  amdReady : Nat
  bscReady : Nat
deriving DecidableEq, Repr

/-- P_SPI_OP: the opcodes of the SPI flash parts (30_encoding.md R89). -/
structure SpiOpcodes where
  wren : Byte
  rdsr : Byte
  se : Byte
  pp : Byte
  rdid : Byte
  be : Byte
deriving DecidableEq, Repr

/-- The control-register code of each SPI operation (45_flash_spi.md R171, field `code[op]`). -/
structure SpiCodes where
  wren : Word
  rdsr : Word
  pp : Word
  se : Word
  be : Word
  rdid : Word
deriving DecidableEq, Repr, Inhabited

/-- An SPI controller layout (45_flash_spi.md R171). -/
structure SpiLayout where
  ctrlReg : Word
  addrReg : Word
  dataReg : Word
  start : Word
  busyBit : Nat
  code : SpiCodes
deriving DecidableEq, Repr, Inhabited

/-- P_MODULE (42_debug_executor.md R143): the seven code modules, opaque word sequences. -/
structure Modules where
  readWord : List Word
  writeWord : List Word
  readHalf : List Word
  writeHalf : List Word
  returnFromDebug : List Word
  readDepc : List Word
  writeDepc : List Word
deriving DecidableEq, Repr, Inhabited

/-- The implementation parameters (00_scope.md R6). State carries them; no step writes them. -/
structure Params where
  /-- P_IR_LENGTH_UNKNOWN -/
  irLengthUnknown : Nat
  /-- P_DMA_SKIP_POLL_IDCODES -/
  skipPollIdcodes : List Word
  /-- P_POLL_TIMEOUT: `none` is unbounded, and `some n` is the bound n + 1, so that a bound is at least 1 -/
  pollExtra : Option Nat
  /-- P_DELAY: timing only, no rule depends on it -/
  delay : Nat
  /-- P_PROC_TABLE -/
  procTable : List ProcDescriptor
  /-- P_FLASH_TABLE -/
  flashTable : List FlashDescriptor
  /-- P_AREA_TABLE -/
  areaTable : List AreaDescriptor
  /-- P_AREA_NAMES -/
  areaNames : List String
  /-- P_FLASH_PROBE_BASE -/
  flashProbeBase : Word
  /-- P_FLASH_WINDOW as (idcode, flash size, base) entries; the default of a missing entry is `flashProbeBase` -/
  flashWindow : List (Word × Word × Word)
  /-- P_KSEG1_BIT -/
  kseg1Bit : Word
  /-- P_VREG_ADDR -/
  vregAddr : Word
  /-- P_VREG_DATA -/
  vregData : Word
  /-- P_DEBUG_VECTOR -/
  debugVector : Word
  /-- P_MODULE -/
  modules : Modules
  /-- P_TARGET_ENDIAN -/
  endian : Endian
  /-- P_SPI_LAYOUT_SELECT as (idcode, layout) entries; NONE where there is no entry -/
  spiLayoutSelect : List (Word × SpiFamily)
  /-- P_SPI_LAYOUT[BROADCOM] -/
  broadcom : SpiLayout
  /-- P_SPI_LAYOUT[ATHEROS] -/
  atheros : SpiLayout
  /-- P_IS_ATHEROS, as the set of IDCODEs it holds for -/
  atherosIdcodes : List Word
  /-- P_EJTAG_IR -/
  ir : IrCodes
  /-- P_CTRL_BITS -/
  ctl : ControlBits
  /-- P_IMP_BITS -/
  imp : ImpBits
  /-- P_NOR_CMD[AMD] -/
  amd : AmdCommands
  /-- P_NOR_CMD[SST] -/
  sst : AmdCommands
  /-- P_NOR_CMD[BSC] -/
  bsc : BscCommands
  /-- The read offsets and ready bits of P_NOR_CMD -/
  nor : NorReads
  /-- P_SPI_OP: what the rows of the SPI opcode port name; a controller is driven by its layout's codes instead, which
  stand for these opcodes (45_flash_spi.md R171, R172) -/
  spiOp : SpiOpcodes
  /-- The write-in-progress bit of the SPI status register (30_encoding.md R89) -/
  wipBit : Nat
  /-- The MODEL's own: a step drives at most this many cable clocks and one more (assumption 1) -/
  clocksPerStep : Nat
deriving DecidableEq, Repr

namespace Config

/-- P_IR_LENGTH_MAX (00_scope.md R6, decision D6). -/
def irLengthMax : Nat := 32

/-- P_TEST_RESET_TMS_HIGH (00_scope.md R6, conflict C1). -/
def testResetTmsHigh : Nat := 5

/-- P_DMA_ATTEMPTS (00_scope.md R6, conflict C3): 16 attempts in all. -/
def dmaAttempts : Nat := 16

/-- The n-th TDO bit the environment draws: a free input of the block (10_state.md R44). No body: nothing is known
of it (assumption 2). -/
opaque tdo : Nat → Bool

/-- OPEN: P_DMA_SKIP_POLL_IDCODES (decision D12). -/
opaque skipPollIdcodes : List Word
/-- OPEN: P_POLL_TIMEOUT (decision D18), as the number of iterations after the first. -/
opaque pollExtra : Option Nat
/-- P_DELAY: any natural number. -/
opaque delay : Nat
/-- External configuration: P_PROC_TABLE. -/
opaque procTable : List ProcDescriptor
/-- External configuration: P_FLASH_TABLE. -/
opaque flashTable : List FlashDescriptor
/-- External configuration: P_AREA_TABLE. -/
opaque areaTable : List AreaDescriptor
/-- External configuration: P_AREA_NAMES. -/
opaque areaNames : List String
/-- OPEN: P_FLASH_WINDOW (decision D20). -/
opaque flashWindow : List (Word × Word × Word)
/-- OPEN: P_MODULE (decision D50). -/
opaque modules : Modules
/-- OPEN: P_TARGET_ENDIAN (decision D13). -/
opaque endian : Endian
/-- OPEN: P_SPI_LAYOUT_SELECT (decision D30). -/
opaque spiLayoutSelect : List (Word × SpiFamily)
/-- OPEN: P_SPI_LAYOUT[ATHEROS] (decision D30). -/
opaque atheros : SpiLayout
/-- OPEN: P_IS_ATHEROS (decision D27). -/
opaque atherosIdcodes : List Word

/-- 30_encoding.md R77, R78. -/
def irCodes : IrCodes where
  idcode := 0x01#32
  impcode := 0x03#32
  address := 0x08#32
  data := 0x09#32
  control := 0x0A#32
  all := 0x0B#32
  ejtagboot := 0x0C#32
  normalboot := 0x0D#32
  fastdata := 0x0E#32

/-- 30_encoding.md R79. -/
def controlBits : ControlBits where
  perrst := 20
  prnw := 19
  pracc := 18
  dmaacc := 17
  prrst := 16
  proben := 15
  probtrap := 14
  jtagbrk := 12
  dstrt := 11
  derr := 10
  drwn := 9
  dsz := 7
  dm := 3

/-- 30_encoding.md R81. -/
def impBits : ImpBits where
  version := 29
  nodma := 14

/-- 30_encoding.md R84. -/
def amdCommands : AmdCommands where
  unlock1Offset := 0x555#32
  unlock2Offset := 0x2AA#32
  unlock1 := 0x00AA#16
  unlock2 := 0x0055#16
  autoselect := 0x0090#16
  eraseSetup := 0x0080#16
  sectorErase := 0x0030#16
  program := 0x00A0#16
  bypassEnter := 0x0020#16
  bypassProgram := 0x00A0#16
  bypassExit1 := 0x0090#16
  bypassExit2 := 0x0000#16
  reset := 0x00F0#16

/-- 30_encoding.md R85: the AMD table with the SST offsets and block-erase datum. -/
def sstCommands : AmdCommands :=
  { amdCommands with unlock1Offset := 0x5555#32, unlock2Offset := 0x2AAA#32, sectorErase := 0x0050#16 }

/-- 30_encoding.md R86. -/
def bscCommands : BscCommands where
  clearStatus := 0x0050#16
  unlockSetup := 0x0060#16
  confirm := 0x00D0#16
  eraseSetup := 0x0020#16
  readStatus := 0x0070#16
  programSetup := 0x0040#16
  readId := 0x0090#16
  readArray := 0x00FF#16

/-- 30_encoding.md R87, R88. -/
def norReads : NorReads where
  vendor := 0x00#32
  device := 0x02#32
  subHigh := 0x1C#32
  subLow := 0x1E#32
  amdReady := 7
  bscReady := 7

/-- 30_encoding.md R89. -/
def spiOpcodes : SpiOpcodes where
  wren := 0x06#8
  rdsr := 0x05#8
  se := 0xD8#8
  pp := 0x02#8
  rdid := 0x9F#8
  be := 0xC7#8

/-- 45_flash_spi.md R171, the BROADCOM column. -/
def broadcom : SpiLayout where
  ctrlReg := 0xB8000040#32
  addrReg := 0xB8000044#32
  dataReg := 0xB8000048#32
  start := 0x80000000#32
  busyBit := 31
  code := { wren := 0x0006#32, rdsr := 0x0105#32, pp := 0x0302#32, se := 0x02D8#32, be := 0x00C7#32,
            rdid := 0x039F#32 }

/-- The parameters State.reset carries: the values 00_scope.md R6 gives, and the opaque constants for those it leaves
open or takes from outside (assumption 6). -/
def params : Params where
  irLengthUnknown := 5
  skipPollIdcodes := skipPollIdcodes
  pollExtra := pollExtra
  delay := delay
  procTable := procTable
  flashTable := flashTable
  areaTable := areaTable
  areaNames := areaNames
  flashProbeBase := 0x1FC00000#32
  flashWindow := flashWindow
  kseg1Bit := 0xA0000000#32
  vregAddr := 0xFF200000#32
  vregData := 0xFF200004#32
  debugVector := 0xFF200200#32
  modules := modules
  endian := endian
  spiLayoutSelect := spiLayoutSelect
  broadcom := broadcom
  atheros := atheros
  atherosIdcodes := atherosIdcodes
  ir := irCodes
  ctl := controlBits
  imp := impBits
  amd := amdCommands
  sst := sstCommands
  bsc := bscCommands
  nor := norReads
  spiOp := spiOpcodes
  wipBit := 0
  clocksPerStep := 1048575

end Config

end Sys2Proof
end

