-- ==== Sys2Proof/Syntax.lean ====
section
/-!
DEFINITION. The instructions: one constructor per row of the opcode table, in the table's order.
The first 45 are the host commands (30_encoding.md R68). The rest are the words the block presents on its
other ports while a command runs: EJTAG instruction codes (R77, R78), CONTROL values (R80), NOR command cycles
(R84-R86), SPI opcodes (R89) and Broadcom SPI control words (45_flash_spi.md R171).
No row carries an operand in its word (R67): operands are the registers A and B.
-/

namespace Sys2Proof

/-- The rows of the opcode table. -/
inductive Instr where
  -- host commands (30_encoding.md R68)
  | tapReset  -- TAP_RESET (40_tap.md R95)
  | tapSetir  -- TAP_SETIR (40_tap.md R97)
  | tapRwdata  -- TAP_RWDATA (40_tap.md R99)
  | tapRdata  -- TAP_RDATA (40_tap.md R100)
  | tapWdata  -- TAP_WDATA (40_tap.md R101)
  | cfgIrlen  -- CFG_IRLEN (40_tap.md R102)
  | detect  -- DETECT (40_tap.md R103)
  | features  -- FEATURES (40_tap.md R105)
  | cfgAccess  -- CFG_ACCESS (40_tap.md R106)
  | cfgWindow  -- CFG_WINDOW (40_tap.md R107)
  | cfgOptions  -- CFG_OPTIONS (40_tap.md R108)
  | flashForce  -- FLASH_FORCE (43_flash_probe.md R157)
  | cfgCustomArea  -- CFG_CUSTOM_AREA (43_flash_probe.md R158)
  | selectArea  -- SELECT_AREA (43_flash_probe.md R159)
  | procReset  -- PROC_RESET (41_memory_access.md R129)
  | procHalt  -- PROC_HALT (41_memory_access.md R130)
  | procResume  -- PROC_RESUME (41_memory_access.md R131)
  | depcRead  -- DEPC_READ (41_memory_access.md R132)
  | depcWrite  -- DEPC_WRITE (41_memory_access.md R133)
  | memRead32  -- MEM_READ32 (41_memory_access.md R110)
  | memRead16  -- MEM_READ16 (41_memory_access.md R111)
  | memWrite32  -- MEM_WRITE32 (41_memory_access.md R112)
  | memWrite16  -- MEM_WRITE16 (41_memory_access.md R113)
  | dmaRead32  -- DMA_READ32 (41_memory_access.md R117)
  | dmaRead16  -- DMA_READ16 (41_memory_access.md R118)
  | dmaWrite32  -- DMA_WRITE32 (41_memory_access.md R119)
  | dmaWrite16  -- DMA_WRITE16 (41_memory_access.md R120)
  | praccRead32  -- PRACC_READ32 (41_memory_access.md R122)
  | praccRead16  -- PRACC_READ16 (41_memory_access.md R123)
  | praccWrite32  -- PRACC_WRITE32 (41_memory_access.md R124)
  | praccWrite16  -- PRACC_WRITE16 (41_memory_access.md R125)
  | execModule  -- EXEC_MODULE (42_debug_executor.md R134)
  | vregWrite  -- VREG_WRITE (41_memory_access.md R126)
  | vregRead  -- VREG_READ (41_memory_access.md R127)
  | flashProbe  -- FLASH_PROBE (43_flash_probe.md R147)
  | flashEraseBlock  -- FLASH_ERASE_BLOCK (44_flash_parallel.md R161)
  | flashProgramWord  -- FLASH_PROGRAM_WORD (44_flash_parallel.md R165)
  | flashResetRead  -- FLASH_RESET_READ (44_flash_parallel.md R168)
  | flashBypassEnter  -- FLASH_BYPASS_ENTER (44_flash_parallel.md R169)
  | flashBypassExit  -- FLASH_BYPASS_EXIT (44_flash_parallel.md R170)
  | spiChipErase  -- SPI_CHIP_ERASE (45_flash_spi.md R177)
  | areaBackup  -- AREA_BACKUP (46_area_ops.md R182)
  | areaErase  -- AREA_ERASE (46_area_ops.md R184)
  | areaProgram  -- AREA_PROGRAM (46_area_ops.md R185)
  | sessionEnd  -- SESSION_END (46_area_ops.md R186)
  -- EJTAG IR instruction codes (30_encoding.md R77, R78)
  | irIdcode  -- IR_IDCODE (30_encoding.md R77)
  | irImpcode  -- IR_IMPCODE (30_encoding.md R77)
  | irAddress  -- IR_ADDRESS (30_encoding.md R77)
  | irData  -- IR_DATA (30_encoding.md R77)
  | irControl  -- IR_CONTROL (30_encoding.md R77)
  | irAll  -- IR_ALL (30_encoding.md R78)
  | irEjtagboot  -- IR_EJTAGBOOT (30_encoding.md R78)
  | irNormalboot  -- IR_NORMALBOOT (30_encoding.md R78)
  | irFastdata  -- IR_FASTDATA (30_encoding.md R78)
  | irBypass  -- IR_BYPASS (30_encoding.md R77)
  -- CONTROL values (30_encoding.md R80)
  | ctlDmaRdW  -- CTL_DMA_RD_W (30_encoding.md R80)
  | ctlDmaRdH  -- CTL_DMA_RD_H (30_encoding.md R80)
  | ctlDmaWrW  -- CTL_DMA_WR_W (30_encoding.md R80)
  | ctlDmaWrH  -- CTL_DMA_WR_H (30_encoding.md R80)
  | ctlDmaPoll  -- CTL_DMA_POLL (30_encoding.md R80)
  | ctlDmaEnd  -- CTL_DMA_END (30_encoding.md R80)
  | ctlPraccPoll  -- CTL_PRACC_POLL (30_encoding.md R80)
  | ctlPraccDone  -- CTL_PRACC_DONE (30_encoding.md R80)
  | ctlHalt  -- CTL_HALT (30_encoding.md R80)
  | ctlReset  -- CTL_RESET (30_encoding.md R80)
  | ctlZero  -- CTL_ZERO (30_encoding.md R80)
  -- parallel NOR command cycles (30_encoding.md R84-R86)
  | amdUnlock1  -- AMD_UNLOCK1 (30_encoding.md R84)
  | amdUnlock2  -- AMD_UNLOCK2 (30_encoding.md R84)
  | amdAutoselect  -- AMD_AUTOSELECT (30_encoding.md R84)
  | amdEraseSetup  -- AMD_ERASE_SETUP (30_encoding.md R84)
  | amdSectorErase  -- AMD_SECTOR_ERASE (30_encoding.md R84)
  | amdProgram  -- AMD_PROGRAM (30_encoding.md R84)
  | amdBypassEnter  -- AMD_BYPASS_ENTER (30_encoding.md R84)
  | amdBypassProgram  -- AMD_BYPASS_PROGRAM (30_encoding.md R84)
  | amdBypassExit1  -- AMD_BYPASS_EXIT1 (30_encoding.md R84)
  | amdBypassExit2  -- AMD_BYPASS_EXIT2 (30_encoding.md R84)
  | amdReset  -- AMD_RESET (30_encoding.md R84)
  | sstUnlock1  -- SST_UNLOCK1 (30_encoding.md R85)
  | sstUnlock2  -- SST_UNLOCK2 (30_encoding.md R85)
  | sstAutoselect  -- SST_AUTOSELECT (30_encoding.md R85)
  | sstEraseSetup  -- SST_ERASE_SETUP (30_encoding.md R85)
  | sstSectorErase  -- SST_SECTOR_ERASE (30_encoding.md R85)
  | sstProgram  -- SST_PROGRAM (30_encoding.md R85)
  | sstReset  -- SST_RESET (30_encoding.md R85)
  | bscClearStatus  -- BSC_CLEAR_STATUS (30_encoding.md R86)
  | bscUnlockSetup  -- BSC_UNLOCK_SETUP (30_encoding.md R86)
  | bscConfirm  -- BSC_CONFIRM (30_encoding.md R86)
  | bscEraseSetup  -- BSC_ERASE_SETUP (30_encoding.md R86)
  | bscReadStatus  -- BSC_READ_STATUS (30_encoding.md R86)
  | bscProgramSetup  -- BSC_PROGRAM_SETUP (30_encoding.md R86)
  | bscReadId  -- BSC_READ_ID (30_encoding.md R86)
  | bscReadArray  -- BSC_READ_ARRAY (30_encoding.md R86)
  -- SPI flash opcodes (30_encoding.md R89) and Broadcom control words (45_flash_spi.md R171)
  | spiWren  -- SPI_WREN (30_encoding.md R89)
  | spiWrenBroadcomCtrl  -- SPI_WREN_BROADCOM_CTRL (45_flash_spi.md R171)
  | spiRdsr  -- SPI_RDSR (30_encoding.md R89)
  | spiRdsrBroadcomCtrl  -- SPI_RDSR_BROADCOM_CTRL (45_flash_spi.md R171)
  | spiSe  -- SPI_SE (30_encoding.md R89)
  | spiSeBroadcomCtrl  -- SPI_SE_BROADCOM_CTRL (45_flash_spi.md R171)
  | spiPp  -- SPI_PP (30_encoding.md R89)
  | spiPpBroadcomCtrl  -- SPI_PP_BROADCOM_CTRL (45_flash_spi.md R171)
  | spiRdid  -- SPI_RDID (30_encoding.md R89)
  | spiRdidBroadcomCtrl  -- SPI_RDID_BROADCOM_CTRL (45_flash_spi.md R171)
  | spiBe  -- SPI_BE (30_encoding.md R89)
  | spiBeBroadcomCtrl  -- SPI_BE_BROADCOM_CTRL (45_flash_spi.md R171)
deriving DecidableEq, Repr

/-- The two address layouts of the AMD-style command cycles, and the Intel-style ones, whose table BSC and SCS share
(30_encoding.md R84-R86). -/
inductive NorFamily where
  | amd
  | sst
  | bsc
deriving DecidableEq, Repr

/-- Where a NOR command cycle goes: an unlock offset, the window base, or the block or word address it concerns
(the "Address" columns of 30_encoding.md R84-R86). -/
inductive NorSite where
  | unlock1
  | unlock2
  | base
  | target
deriving DecidableEq, Repr

/-- The places at which the block takes or presents a word of the opcode table: the table's "format" column.
The length of an instruction register is not in its encoding (30_encoding.md R76), so the port carries it; a NOR
cycle is told by its family and address as well as by its datum. -/
inductive Port where
  | command
  | instructionRegister (length : Nat)
  | control
  | nor (family : NorFamily) (site : NorSite)
  | spiOpcode
  | spiControl
deriving DecidableEq, Repr

end Sys2Proof
end

