-- ==== Sys2Proof/WellFormed.lean ====
section
/-!
DEFINITION. Which rows belong to which port (the opcode table's "format" column), and when a row is well formed there:
an EJTAG instruction code must fit the instruction register and must not be its all-ones code, which is BYPASS
(30_encoding.md R76, R77). Every other row is well formed.
-/

namespace Sys2Proof

/-- The port a row's word is taken or presented at; `length` is the IR length (30_encoding.md R66, R77-R89,
45_flash_spi.md R171). -/
def portOf (length : Nat) : Instr → Port
  | .tapReset | .tapSetir | .tapRwdata | .tapRdata | .tapWdata | .cfgIrlen | .detect | .features
  | .cfgAccess | .cfgWindow | .cfgOptions | .flashForce | .cfgCustomArea | .selectArea | .procReset
  | .procHalt | .procResume | .depcRead | .depcWrite | .memRead32 | .memRead16 | .memWrite32 | .memWrite16
  | .dmaRead32 | .dmaRead16 | .dmaWrite32 | .dmaWrite16 | .praccRead32 | .praccRead16 | .praccWrite32
  | .praccWrite16 | .execModule | .vregWrite | .vregRead | .flashProbe | .flashEraseBlock
  | .flashProgramWord | .flashResetRead | .flashBypassEnter | .flashBypassExit | .spiChipErase
  | .areaBackup | .areaErase | .areaProgram | .sessionEnd => .command
  | .irIdcode | .irImpcode | .irAddress | .irData | .irControl | .irAll | .irEjtagboot | .irNormalboot
  | .irFastdata | .irBypass => .instructionRegister length
  | .ctlDmaRdW | .ctlDmaRdH | .ctlDmaWrW | .ctlDmaWrH | .ctlDmaPoll | .ctlDmaEnd | .ctlPraccPoll
  | .ctlPraccDone | .ctlHalt | .ctlReset | .ctlZero => .control
  | .amdUnlock1 | .amdAutoselect | .amdEraseSetup | .amdProgram | .amdBypassEnter => .nor .amd .unlock1
  | .amdUnlock2 => .nor .amd .unlock2
  | .amdSectorErase => .nor .amd .target
  | .amdBypassProgram | .amdBypassExit1 | .amdBypassExit2 | .amdReset => .nor .amd .base
  | .sstUnlock1 | .sstAutoselect | .sstEraseSetup | .sstProgram => .nor .sst .unlock1
  | .sstUnlock2 => .nor .sst .unlock2
  | .sstSectorErase => .nor .sst .target
  | .sstReset => .nor .sst .base
  | .bscClearStatus | .bscUnlockSetup | .bscConfirm | .bscEraseSetup | .bscReadStatus | .bscProgramSetup => .nor .bsc .target
  | .bscReadId | .bscReadArray => .nor .bsc .base
  | .spiWren | .spiRdsr | .spiSe | .spiPp | .spiRdid | .spiBe => .spiOpcode
  | .spiWrenBroadcomCtrl | .spiRdsrBroadcomCtrl | .spiSeBroadcomCtrl | .spiPpBroadcomCtrl
  | .spiRdidBroadcomCtrl | .spiBeBroadcomCtrl => .spiControl

/-- The assigned EJTAG instruction codes (30_encoding.md R77, R78); BYPASS has none of its own. -/
def assignedIrCode : Instr → Option Word
  | .irIdcode => some 0x01#32
  | .irImpcode => some 0x03#32
  | .irAddress => some 0x08#32
  | .irData => some 0x09#32
  | .irControl => some 0x0A#32
  | .irAll => some 0x0B#32
  | .irEjtagboot => some 0x0C#32
  | .irNormalboot => some 0x0D#32
  | .irFastdata => some 0x0E#32
  | _ => none

/-- A length an instruction register may have: 1..P_IR_LENGTH_MAX (10_state.md R29). -/
def legalIrLength (length : Nat) : Bool :=
  decide (1 ≤ length ∧ length ≤ Config.irLengthMax)

/-- A row is well formed for an IR length: an EJTAG code fits the register and is not all ones, which is BYPASS. -/
def wellFormed (length : Nat) (i : Instr) : Bool :=
  match portOf length i with
  | .instructionRegister n =>
      match assignedIrCode i with
      | some code => legalIrLength n && decide (code.toNat + 1 < 2 ^ n)
      | none => legalIrLength n
  | _ => true

/-- A row may stand at a port only if the port is its own. -/
def belongsAt (p : Port) (i : Instr) : Bool :=
  match p with
  | .instructionRegister n => decide (portOf n i = p) && wellFormed n i
  | _ => decide (portOf 0 i = p)

end Sys2Proof
end

