-- ==== Sys2Proof/Decode.lean ====
section
/-!
DEFINITION. The decoder, total on every word of every port and rejecting by name, and after it the encoder, each
written from the tables of 30_encoding.md (R66-R69, R77-R89) and 45_flash_spi.md R171. The words of the ports other than
the command port are those tables' values, which are the defaults of parameters: that a word stands for its row by the
default, also where State.cfg holds another value, is the model's choice (DESIGN CHOICE, assumption 21).
-/

namespace Sys2Proof

/-- Why a word is no instruction of a port. -/
inductive Reject where
  /-- Bits that must be 0 are not (CMD[31:8], 30_encoding.md R66; a datum wider than its port). -/
  | reservedBits
  /-- An OP value that is no row of the opcode map (30_encoding.md R69). -/
  | unassignedOp
  /-- An IR length outside 1..P_IR_LENGTH_MAX. -/
  | badIrLength
  /-- An IR code the spec does not assign (30_encoding.md R77, R78). -/
  | unassignedIrCode
  /-- No CONTROL value of 30_encoding.md R80. -/
  | unassignedControl
  /-- No cycle of that family at that address (30_encoding.md R84-R86). -/
  | unassignedCycle
  /-- No SPI opcode or control word (30_encoding.md R89, 45_flash_spi.md R171). -/
  | unassignedSpi
deriving DecidableEq, Repr

/-- The opcode map (30_encoding.md R68). -/
def decodeOp : Nat → Option Instr
  | 0x01 => some .tapReset
  | 0x02 => some .tapSetir
  | 0x03 => some .tapRwdata
  | 0x04 => some .tapRdata
  | 0x05 => some .tapWdata
  | 0x10 => some .cfgIrlen
  | 0x11 => some .detect
  | 0x12 => some .features
  | 0x13 => some .cfgAccess
  | 0x14 => some .cfgWindow
  | 0x15 => some .cfgOptions
  | 0x16 => some .flashForce
  | 0x17 => some .cfgCustomArea
  | 0x18 => some .selectArea
  | 0x20 => some .procReset
  | 0x21 => some .procHalt
  | 0x22 => some .procResume
  | 0x23 => some .depcRead
  | 0x24 => some .depcWrite
  | 0x30 => some .memRead32
  | 0x31 => some .memRead16
  | 0x32 => some .memWrite32
  | 0x33 => some .memWrite16
  | 0x34 => some .dmaRead32
  | 0x35 => some .dmaRead16
  | 0x36 => some .dmaWrite32
  | 0x37 => some .dmaWrite16
  | 0x38 => some .praccRead32
  | 0x39 => some .praccRead16
  | 0x3A => some .praccWrite32
  | 0x3B => some .praccWrite16
  | 0x3C => some .execModule
  | 0x3D => some .vregWrite
  | 0x3E => some .vregRead
  | 0x40 => some .flashProbe
  | 0x41 => some .flashEraseBlock
  | 0x42 => some .flashProgramWord
  | 0x43 => some .flashResetRead
  | 0x44 => some .flashBypassEnter
  | 0x45 => some .flashBypassExit
  | 0x46 => some .spiChipErase
  | 0x50 => some .areaBackup
  | 0x51 => some .areaErase
  | 0x52 => some .areaProgram
  | 0x60 => some .sessionEnd
  | _ => none

/-- A command word: `op = CMD[7:0]`, bits 31:8 zero (30_encoding.md R66, R69). -/
def decodeCommand (w : Word) : Except Reject Instr :=
  if w.extractLsb' 8 24 ≠ 0#24 then .error .reservedBits
  else
    match decodeOp (w.extractLsb' 0 8).toNat with
    | some i => .ok i
    | none => .error .unassignedOp

/-- The assigned instruction codes (30_encoding.md R77, R78), at the defaults of P_EJTAG_IR (assumption 21). -/
def decodeIrCode : Nat → Option Instr
  | 0x01 => some .irIdcode
  | 0x03 => some .irImpcode
  | 0x08 => some .irAddress
  | 0x09 => some .irData
  | 0x0A => some .irControl
  | 0x0B => some .irAll
  | 0x0C => some .irEjtagboot
  | 0x0D => some .irNormalboot
  | 0x0E => some .irFastdata
  | _ => none

/-- An instruction code of an IR of `length` bits: only the low `length` bits count (30_encoding.md R76), and all
ones is BYPASS (R77). -/
def decodeIr (length : Nat) (w : Word) : Except Reject Instr :=
  if legalIrLength length then
    let code := w.toNat % 2 ^ length
    if code + 1 = 2 ^ length then .ok .irBypass
    else
      match decodeIrCode code with
      | some i => .ok i
      | none => .error .unassignedIrCode
  else .error .badIrLength

/-- The CONTROL values (30_encoding.md R80), at the defaults of P_CTRL_BITS (assumption 21). -/
def decodeControlValue : Nat → Option Instr
  | 0x00068B00 => some .ctlDmaRdW
  | 0x00068A80 => some .ctlDmaRdH
  | 0x00068900 => some .ctlDmaWrW
  | 0x00068880 => some .ctlDmaWrH
  | 0x00068000 => some .ctlDmaPoll
  | 0x00048000 => some .ctlDmaEnd
  | 0x0004C000 => some .ctlPraccPoll
  | 0x0000C000 => some .ctlPraccDone
  | 0x0004D000 => some .ctlHalt
  | 0x00110000 => some .ctlReset
  | 0x00000000 => some .ctlZero
  | _ => none

/-- The NOR cycles, told by family, address and datum (30_encoding.md R84-R86), at the defaults of P_NOR_CMD
(assumption 21). -/
def decodeCycle : NorFamily → NorSite → Nat → Option Instr
  | .amd, .unlock1, 0x00AA => some .amdUnlock1
  | .amd, .unlock2, 0x0055 => some .amdUnlock2
  | .amd, .unlock1, 0x0090 => some .amdAutoselect
  | .amd, .unlock1, 0x0080 => some .amdEraseSetup
  | .amd, .target, 0x0030 => some .amdSectorErase
  | .amd, .unlock1, 0x00A0 => some .amdProgram
  | .amd, .unlock1, 0x0020 => some .amdBypassEnter
  | .amd, .base, 0x00A0 => some .amdBypassProgram
  | .amd, .base, 0x0090 => some .amdBypassExit1
  | .amd, .base, 0x0000 => some .amdBypassExit2
  | .amd, .base, 0x00F0 => some .amdReset
  | .sst, .unlock1, 0x00AA => some .sstUnlock1
  | .sst, .unlock2, 0x0055 => some .sstUnlock2
  | .sst, .unlock1, 0x0090 => some .sstAutoselect
  | .sst, .unlock1, 0x0080 => some .sstEraseSetup
  | .sst, .target, 0x0050 => some .sstSectorErase
  | .sst, .unlock1, 0x00A0 => some .sstProgram
  | .sst, .base, 0x00F0 => some .sstReset
  | .bsc, .target, 0x0050 => some .bscClearStatus
  | .bsc, .target, 0x0060 => some .bscUnlockSetup
  | .bsc, .target, 0x00D0 => some .bscConfirm
  | .bsc, .target, 0x0020 => some .bscEraseSetup
  | .bsc, .target, 0x0070 => some .bscReadStatus
  | .bsc, .target, 0x0040 => some .bscProgramSetup
  | .bsc, .base, 0x0090 => some .bscReadId
  | .bsc, .base, 0x00FF => some .bscReadArray
  | _, _, _ => none

/-- The SPI flash opcodes (30_encoding.md R89), at the defaults of P_SPI_OP (assumption 21). -/
def decodeSpiOpcode : Nat → Option Instr
  | 0x06 => some .spiWren
  | 0x05 => some .spiRdsr
  | 0xD8 => some .spiSe
  | 0x02 => some .spiPp
  | 0x9F => some .spiRdid
  | 0xC7 => some .spiBe
  | _ => none

/-- The Broadcom control words, start bit and code together (45_flash_spi.md R171), at the defaults of
P_SPI_LAYOUT[BROADCOM] (assumption 21). -/
def decodeSpiControl : Nat → Option Instr
  | 0x80000006 => some .spiWrenBroadcomCtrl
  | 0x80000105 => some .spiRdsrBroadcomCtrl
  | 0x800002D8 => some .spiSeBroadcomCtrl
  | 0x80000302 => some .spiPpBroadcomCtrl
  | 0x8000039F => some .spiRdidBroadcomCtrl
  | 0x800000C7 => some .spiBeBroadcomCtrl
  | _ => none

/-- What a lookup that failed is rejected as. -/
def orReject (why : Reject) : Option Instr → Except Reject Instr
  | some i => .ok i
  | none => .error why

/-- The decoder: the row a word stands for at a port. -/
def decode (p : Port) (w : Word) : Except Reject Instr :=
  match p with
  | .command => decodeCommand w
  | .instructionRegister length => decodeIr length w
  | .control => orReject .unassignedControl (decodeControlValue w.toNat)
  | .nor family site =>
      if w.extractLsb' 16 16 ≠ 0#16 then .error .reservedBits
      else orReject .unassignedCycle (decodeCycle family site w.toNat)
  | .spiOpcode =>
      if w.extractLsb' 8 24 ≠ 0#24 then .error .reservedBits
      else orReject .unassignedSpi (decodeSpiOpcode w.toNat)
  | .spiControl => orReject .unassignedSpi (decodeSpiControl w.toNat)

/-- The word of a row at its port, for an IR of `length` bits (only BYPASS depends on it), at the defaults of the
parameters (assumption 21). -/
def encodeWord (length : Nat) : Instr → Word
  | .tapReset => 0x00000001#32
  | .tapSetir => 0x00000002#32
  | .tapRwdata => 0x00000003#32
  | .tapRdata => 0x00000004#32
  | .tapWdata => 0x00000005#32
  | .cfgIrlen => 0x00000010#32
  | .detect => 0x00000011#32
  | .features => 0x00000012#32
  | .cfgAccess => 0x00000013#32
  | .cfgWindow => 0x00000014#32
  | .cfgOptions => 0x00000015#32
  | .flashForce => 0x00000016#32
  | .cfgCustomArea => 0x00000017#32
  | .selectArea => 0x00000018#32
  | .procReset => 0x00000020#32
  | .procHalt => 0x00000021#32
  | .procResume => 0x00000022#32
  | .depcRead => 0x00000023#32
  | .depcWrite => 0x00000024#32
  | .memRead32 => 0x00000030#32
  | .memRead16 => 0x00000031#32
  | .memWrite32 => 0x00000032#32
  | .memWrite16 => 0x00000033#32
  | .dmaRead32 => 0x00000034#32
  | .dmaRead16 => 0x00000035#32
  | .dmaWrite32 => 0x00000036#32
  | .dmaWrite16 => 0x00000037#32
  | .praccRead32 => 0x00000038#32
  | .praccRead16 => 0x00000039#32
  | .praccWrite32 => 0x0000003A#32
  | .praccWrite16 => 0x0000003B#32
  | .execModule => 0x0000003C#32
  | .vregWrite => 0x0000003D#32
  | .vregRead => 0x0000003E#32
  | .flashProbe => 0x00000040#32
  | .flashEraseBlock => 0x00000041#32
  | .flashProgramWord => 0x00000042#32
  | .flashResetRead => 0x00000043#32
  | .flashBypassEnter => 0x00000044#32
  | .flashBypassExit => 0x00000045#32
  | .spiChipErase => 0x00000046#32
  | .areaBackup => 0x00000050#32
  | .areaErase => 0x00000051#32
  | .areaProgram => 0x00000052#32
  | .sessionEnd => 0x00000060#32
  | .irIdcode => 0x01#32
  | .irImpcode => 0x03#32
  | .irAddress => 0x08#32
  | .irData => 0x09#32
  | .irControl => 0x0A#32
  | .irAll => 0x0B#32
  | .irEjtagboot => 0x0C#32
  | .irNormalboot => 0x0D#32
  | .irFastdata => 0x0E#32
  | .irBypass => BitVec.ofNat 32 (2 ^ length - 1)
  | .ctlDmaRdW => 0x00068B00#32
  | .ctlDmaRdH => 0x00068A80#32
  | .ctlDmaWrW => 0x00068900#32
  | .ctlDmaWrH => 0x00068880#32
  | .ctlDmaPoll => 0x00068000#32
  | .ctlDmaEnd => 0x00048000#32
  | .ctlPraccPoll => 0x0004C000#32
  | .ctlPraccDone => 0x0000C000#32
  | .ctlHalt => 0x0004D000#32
  | .ctlReset => 0x00110000#32
  | .ctlZero => 0x00000000#32
  | .amdUnlock1 => 0x00AA#32
  | .amdUnlock2 => 0x0055#32
  | .amdAutoselect => 0x0090#32
  | .amdEraseSetup => 0x0080#32
  | .amdSectorErase => 0x0030#32
  | .amdProgram => 0x00A0#32
  | .amdBypassEnter => 0x0020#32
  | .amdBypassProgram => 0x00A0#32
  | .amdBypassExit1 => 0x0090#32
  | .amdBypassExit2 => 0x0000#32
  | .amdReset => 0x00F0#32
  | .sstUnlock1 => 0x00AA#32
  | .sstUnlock2 => 0x0055#32
  | .sstAutoselect => 0x0090#32
  | .sstEraseSetup => 0x0080#32
  | .sstSectorErase => 0x0050#32
  | .sstProgram => 0x00A0#32
  | .sstReset => 0x00F0#32
  | .bscClearStatus => 0x0050#32
  | .bscUnlockSetup => 0x0060#32
  | .bscConfirm => 0x00D0#32
  | .bscEraseSetup => 0x0020#32
  | .bscReadStatus => 0x0070#32
  | .bscProgramSetup => 0x0040#32
  | .bscReadId => 0x0090#32
  | .bscReadArray => 0x00FF#32
  | .spiWren => 0x06#32
  | .spiWrenBroadcomCtrl => 0x80000006#32
  | .spiRdsr => 0x05#32
  | .spiRdsrBroadcomCtrl => 0x80000105#32
  | .spiSe => 0xD8#32
  | .spiSeBroadcomCtrl => 0x800002D8#32
  | .spiPp => 0x02#32
  | .spiPpBroadcomCtrl => 0x80000302#32
  | .spiRdid => 0x9F#32
  | .spiRdidBroadcomCtrl => 0x8000039F#32
  | .spiBe => 0xC7#32
  | .spiBeBroadcomCtrl => 0x800000C7#32

/-- The encoder: the port and the word of a row. -/
def encode (length : Nat) (i : Instr) : Port × Word :=
  (portOf length i, encodeWord length i)

/-- How many bits a word of a port has. -/
def portWidth : Port → Nat
  | .command => 32
  | .instructionRegister length => length
  | .control => 32
  | .nor _ _ => 16
  | .spiOpcode => 8
  | .spiControl => 32

/-- The ports whose words have `nbits` bits, in the order in which a bare table word is tried at them: the host's
command port first. -/
def portsOfWidth (nbits : Nat) : List Port :=
  if nbits = 32 then [.command, .control, .spiControl]
  else if nbits = 16 then
    [.nor .amd .unlock1, .nor .amd .unlock2, .nor .amd .target, .nor .amd .base,
     .nor .sst .unlock1, .nor .sst .unlock2, .nor .sst .target, .nor .sst .base,
     .nor .bsc .target, .nor .bsc .base]
  else if nbits = 8 then [.spiOpcode, .instructionRegister 8]
  else []

/-- The first port of a list at which a word decodes, with the row it stands for there. -/
def firstDecoding (w : Word) : List Port → Option (Port × Instr)
  | [] => none
  | p :: rest =>
      match decode p w with
      | .ok i => some (p, i)
      | .error _ => firstDecoding w rest

/-- The row a bare table word of `nbits` bits stands for, with its port (assumption 5). A row's word is one word of
its port, so there is no byte order to lay out. -/
def decodeTableEntry (nbits w : Nat) : Option (Port × Instr) :=
  firstDecoding (BitVec.ofNat 32 w) (portsOfWidth nbits)

/-- The row a bare table word of `nbits` bits stands for. -/
def decodeTableWord (nbits w : Nat) : Option Instr :=
  (decodeTableEntry nbits w).map Prod.snd

end Sys2Proof
end

