-- ==== Sys2Proof/Machine/State.lean ====
section
/-!
DEFINITION. The state of the block as plain data (10_state.md R20-R48), what the host and the cable hand it, the
reasons a step can stop, and the state after reset (R47).
-/

namespace Sys2Proof.Machine

/-- The sixteen TAP controller states (10_state.md R20). -/
inductive TapState where
  | testLogicReset
  | runTestIdle
  | selectDr
  | captureDr
  | shiftDr
  | exit1Dr
  | pauseDr
  | exit2Dr
  | updateDr
  | selectIr
  | captureIr
  | shiftIr
  | exit1Ir
  | pauseIr
  | exit2Ir
  | updateIr
deriving DecidableEq, Repr

/-- What the block drives on one cable clock: the TMS and TDI of `Clock(tms, tdi)` (40_tap.md R90). -/
structure CableClock where
  tms : Bool
  tdi : Bool
deriving DecidableEq, Repr

/-- The cable port and the controller's record of the target TAP. -/
structure Cable where
  /-- tap_shadow; `none` is UNKNOWN (10_state.md R22) -/
  shadow : Option TapState
  /-- The model's own: TDO bits the environment has already fixed, taken before any free one (assumption 2) -/
  tdoIn : List Bool
  /-- The model's own: how many free TDO bits have been drawn (assumption 2) -/
  draws : Nat
  /-- The model's own record: every clock driven so far, oldest first (assumption 15) -/
  clocks : List CableClock
deriving DecidableEq, Repr

/-- Host registers and the result register (10_state.md R24, R25). -/
structure HostRegs where
  cmd : Word
  a : Word
  b : Word
  result : Word
deriving DecidableEq, Repr

/-- The fault codes (60_exceptions.md R188). -/
inductive FaultCode where
  | none
  | illegalCmd
  | noIrLen
  | tapUnsync
  | moduleRange
  | noFlash
  | unsupported
  | timeout
  | badArea
  | stream
  | badOperand
  | noModule
deriving DecidableEq, Repr

/-- The stored fields of STATUS (10_state.md R26, R42, R43). BUSY is `State.running`; TAP_VALID and TAP_STATE are
views of `Cable.shadow`. -/
structure Status where
  faulted : Bool
  faultCode : FaultCode
  dmaErr : Bool
  dmaFails : BitVec 8
  unknownCpu : Bool
  unknownFlash : Bool
  skipped : Bool
  inDebug : Bool
deriving DecidableEq, Repr

/-- The TAP session (10_state.md R28, R29): `none` is EMPTY and UNSET. -/
structure TapSession where
  irCache : Option Word
  irLength : Option Nat
deriving DecidableEq, Repr

/-- The access-strategy override (10_state.md R32). -/
inductive AccessMode where
  | auto
  | forceDma
  | forcePracc
deriving DecidableEq, Repr

/-- The EJTAG session (10_state.md R30-R32, R34): `none` is NONE. -/
structure Session where
  idcode : Word
  idcodeValid : Bool
  procIndex : Option Nat
  impcode : Word
  ejtagVersion : BitVec 3
  dmaCapable : Bool
  accessMode : AccessMode
  useDma : Bool
  spiLayout : Option SpiFamily
deriving DecidableEq, Repr

/-- The flash window, identity, block table and bypass bookkeeping (10_state.md R33, R35, R36, R41). -/
structure Flash where
  base : Word
  windowOverride : Option Word
  cmdType : Option FlashKind
  index : Option Nat
  size : Word
  vendorId : Half
  deviceId : Half
  blockTable : List Word
  bypassActive : Bool
deriving DecidableEq, Repr

/-- The selected and the custom area (10_state.md R37). -/
structure Area where
  valid : Bool
  start : Word
  length : Word
  customStart : Option Word
  customLength : Option Word
deriving DecidableEq, Repr

/-- The option bits (10_state.md R38). -/
structure Options where
  bypass : Bool
  st5 : Bool
  swapEndian : Bool
  reboot : Bool
deriving DecidableEq, Repr

/-- The Virtual Register Pair and the executor's own fields (10_state.md R39, R40). `vectorReads` is exec_vector_reads as
42_debug_executor.md R134 and R138 count it, one more for every read at the debug vector; the range 0..2 of R40 is its
view `execVectorReads` (assumption 8). -/
structure VirtualRegs where
  address : Word
  data : Word
  execData : Word
  vectorReads : Nat
deriving DecidableEq, Repr

/-- The host word streams (46_area_ops.md R180): the input stream_ok, the bytes left to take, the bytes emitted. -/
structure Streams where
  ok : Bool
  input : List Byte
  output : List Byte
deriving DecidableEq, Repr

/-- The two access widths (20_memory.md R51). -/
inductive Width where
  | half
  | word
deriving DecidableEq, Repr

/-- One target memory access as `MemRead` and `MemWrite` issue it (41_memory_access.md R109): the caller's address,
and for a write the 32-bit value on the bus (20_memory.md R53). -/
inductive Access where
  | read (width : Width) (addr : Word)
  | write (width : Width) (addr : Word) (value : Word)
deriving DecidableEq, Repr

/-- Everything a command works on: the block's state, its ports, and the parameters it is built with. -/
structure Engine where
  regs : HostRegs
  status : Status
  cable : Cable
  tap : TapSession
  session : Session
  flash : Flash
  area : Area
  options : Options
  vregs : VirtualRegs
  streams : Streams
  /-- The model's own record: the target accesses issued so far, oldest first (assumption 15) -/
  bus : List Access
  /-- The implementation parameters (00_scope.md R6); no step writes them (assumption 6) -/
  cfg : Params
deriving DecidableEq, Repr

/-- What the host does next (00_scope.md R5; 10_state.md R24; 30_encoding.md R71; 70_reset_and_hazards.md R202, R209).
The model's own list form: assumption 3. -/
inductive HostAction where
  /-- Write register A at once. -/
  | writeA (v : Word)
  /-- Write register B at once. -/
  | writeB (v : Word)
  /-- Write CMD at once: this starts a command, unless the block is busy. -/
  | writeCmd (w : Word)
  /-- Wait for STATUS.BUSY = 0. -/
  | awaitIdle
  /-- Once the block is idle: set stream_ok, supply the input bytes, and take away what was emitted. -/
  | openStreams (ok : Bool) (bytes : List Byte)
  /-- Power-cycle the block. -/
  | blockReset
  /-- The model's own (assumption 4): once the block is idle, have it perform one word of another port by itself. -/
  | present (p : Port) (w : Word)
deriving DecidableEq, Repr

/-- A command in progress (assumption 1): the instruction, the state it began in, and how many cable clocks from
there it has been allowed so far. -/
structure Running where
  instr : Instr
  start : Engine
  budget : Nat
deriving DecidableEq, Repr

/-- The machine's state: the engine, what the host has yet to do, and the command in progress. STATUS.BUSY is
`running.isSome` (10_state.md R26). -/
structure State extends Engine where
  host : List HostAction
  running : Option Running
deriving DecidableEq, Repr

/-- A step never stops with a fault: the block's own faults are next states (60_exceptions.md R190) and a command that
never ends stays busy (R194). So there is no constructor, and nothing raises one. -/
inductive Fault where
deriving DecidableEq, Repr

/-- The reasons to refuse an instruction. -/
inductive Refusal where
  /-- Raised by an arm of `exec` whose instruction has no meaning yet; safe, since nothing is claimed to happen. No arm
  does so now. The block's own refusal of a command (60_exceptions.md R191) is a next state, not this. -/
  | notModelled (mnemonic : String)
deriving DecidableEq, Repr

/-- The engine after block reset (10_state.md R47, 70_reset_and_hazards.md R202), built with parameters `p`. The cable
and the streams start empty (assumptions 2, 7, 15). -/
def Engine.reset (p : Params) : Engine where
  regs := { cmd := 0#32, a := 0#32, b := 0#32, result := 0#32 }
  status :=
    { faulted := false, faultCode := .none, dmaErr := false, dmaFails := 0#8, unknownCpu := false,
      unknownFlash := false, skipped := false, inDebug := false }
  cable := { shadow := none, tdoIn := [], draws := 0, clocks := [] }
  tap := { irCache := none, irLength := none }
  session :=
    { idcode := 0#32, idcodeValid := false, procIndex := none, impcode := 0#32, ejtagVersion := 0#3,
      dmaCapable := false, accessMode := .auto, useDma := false, spiLayout := none }
  flash :=
    { base := p.flashProbeBase, windowOverride := none, cmdType := none, index := none, size := 0#32,
      vendorId := 0#16, deviceId := 0#16, blockTable := [], bypassActive := false }
  area := { valid := false, start := 0#32, length := 0#32, customStart := none, customLength := none }
  options := { bypass := false, st5 := false, swapEndian := false, reboot := false }
  vregs := { address := 0#32, data := 0#32, execData := 0#32, vectorReads := 0 }
  streams := { ok := false, input := [], output := [] }
  bus := []
  cfg := p

/-- The machine right after reset (10_state.md R47): idle, with nothing for the host to do. -/
def State.reset : State :=
  { Engine.reset Config.params with host := [], running := none }

end Sys2Proof.Machine
end

