-- ==== Sys2Proof/Machine/Cable.lean ====
section
/-!
DEFINITION. The cable port (40_tap.md R90-R92): the TAP state table (10_state.md R21), one clock, a run of clocks, and
the clock sequences of the TAP operations (30_encoding.md R73-R75).
-/

namespace Sys2Proof.Machine

/-- `Next(s, tms)` (10_state.md R21). -/
def tapNext : TapState → Bool → TapState
  | .testLogicReset, false => .runTestIdle
  | .testLogicReset, true => .testLogicReset
  | .runTestIdle, false => .runTestIdle
  | .runTestIdle, true => .selectDr
  | .selectDr, false => .captureDr
  | .selectDr, true => .selectIr
  | .captureDr, false => .shiftDr
  | .captureDr, true => .exit1Dr
  | .shiftDr, false => .shiftDr
  | .shiftDr, true => .exit1Dr
  | .exit1Dr, false => .pauseDr
  | .exit1Dr, true => .updateDr
  | .pauseDr, false => .pauseDr
  | .pauseDr, true => .exit2Dr
  | .exit2Dr, false => .shiftDr
  | .exit2Dr, true => .updateDr
  | .updateDr, false => .runTestIdle
  | .updateDr, true => .selectDr
  | .selectIr, false => .captureIr
  | .selectIr, true => .testLogicReset
  | .captureIr, false => .shiftIr
  | .captureIr, true => .exit1Ir
  | .shiftIr, false => .shiftIr
  | .shiftIr, true => .exit1Ir
  | .exit1Ir, false => .pauseIr
  | .exit1Ir, true => .updateIr
  | .pauseIr, false => .pauseIr
  | .pauseIr, true => .exit2Ir
  | .exit2Ir, false => .shiftIr
  | .exit2Ir, true => .updateIr
  | .updateIr, false => .runTestIdle
  | .updateIr, true => .selectDr

/-- What one clock does to tap_shadow: nothing while it is UNKNOWN (10_state.md R22). -/
def shadowNext (shadow : Option TapState) (tms : Bool) : Option TapState :=
  shadow.map fun s => tapNext s tms

/-- `Clock(tms, tdi) -> tdo` (40_tap.md R90): drive the pins, sample TDO, move tap_shadow. The TDO bit is a free input
(10_state.md R44): one the environment has fixed, else one it draws (assumption 2). -/
def clockPins (k : CableClock) : Cable → Bool × Cable
  | ⟨shadow, tdo :: rest, draws, clocks⟩ =>
      (tdo, ⟨shadowNext shadow k.tms, rest, draws, clocks ++ [k]⟩)
  | ⟨shadow, [], draws, clocks⟩ =>
      (Config.tdo draws, ⟨shadowNext shadow k.tms, [], draws + 1, clocks ++ [k]⟩)

/-- A run of clocks, with the TDO bits it returned, first clock first. -/
def runClocks : List CableClock → Cable → List Bool × Cable
  | [], c => ([], c)
  | k :: rest, c =>
      let first := clockPins k c
      let others := runClocks rest first.2
      (first.1 :: others.1, others.2)

/-- The TMS-high clocks of TestReset (30_encoding.md R73). -/
def resetSequence : List CableClock :=
  List.replicate Config.testResetTmsHigh ⟨true, false⟩

/-- The last clock of TestReset, to Run-Test-Idle (30_encoding.md R73). -/
def resetExit : List CableClock :=
  [⟨false, false⟩]

/-- The shift clocks for the low `n` bits of a value, least significant first; the last raises TMS
(30_encoding.md R74, R75). -/
def shiftSequence (n : Nat) (v : Word) : List CableClock :=
  (List.range n).map fun i => ⟨decide (i + 1 = n), v.getLsbD i⟩

/-- SetIR for an IR of `length` bits (30_encoding.md R74). -/
def irSequence (length : Nat) (instr : Word) : List CableClock :=
  [⟨true, false⟩, ⟨true, false⟩, ⟨false, false⟩, ⟨false, false⟩]
    ++ shiftSequence length instr
    ++ [⟨true, false⟩, ⟨false, false⟩]

/-- RWData (30_encoding.md R75). -/
def drSequence (v : Word) : List CableClock :=
  [⟨true, false⟩, ⟨false, false⟩, ⟨false, false⟩]
    ++ shiftSequence 32 v
    ++ [⟨true, false⟩, ⟨false, false⟩]

/-- "sum over i of (tdo_i << i)" (30_encoding.md R75). -/
def natOfBits : List Bool → Nat
  | [] => 0
  | b :: rest => b.toNat + 2 * natOfBits rest

/-- The value RWData returns, from the TDO bits of its 37 clocks: the framing clocks' bits are ignored
(30_encoding.md R75). -/
def capturedWord (tdo : List Bool) : Word :=
  BitVec.ofNat 32 (natOfBits ((tdo.drop 3).take 32))

end Sys2Proof.Machine
end

