-- ==== Sys2Proof/Machine/Flags.lean ====
section
/-!
DEFINITION. Every status computation: the encodings of the TAP states and the fault codes, the STATUS word
(10_state.md R23, R26; 60_exceptions.md R188), fault entry (R190) and the DMA failure record (41_memory_access.md R115).
-/

namespace Sys2Proof.Machine

/-- The 4-bit encoding of the TAP states (10_state.md R23). -/
def tapStateCode : TapState → BitVec 4
  | .testLogicReset => 0xF#4
  | .runTestIdle => 0xC#4
  | .selectDr => 0x7#4
  | .captureDr => 0x6#4
  | .shiftDr => 0x2#4
  | .exit1Dr => 0x1#4
  | .pauseDr => 0x3#4
  | .exit2Dr => 0x0#4
  | .updateDr => 0x5#4
  | .selectIr => 0x4#4
  | .captureIr => 0xE#4
  | .shiftIr => 0xA#4
  | .exit1Ir => 0x9#4
  | .pauseIr => 0xB#4
  | .exit2Ir => 0x8#4
  | .updateIr => 0xD#4

/-- The number of a fault code (60_exceptions.md R188). -/
def faultNumber : FaultCode → BitVec 8
  | .none => 0x00#8
  | .illegalCmd => 0x01#8
  | .noIrLen => 0x02#8
  | .tapUnsync => 0x03#8
  | .moduleRange => 0x04#8
  | .noFlash => 0x05#8
  | .unsupported => 0x06#8
  | .timeout => 0x07#8
  | .badArea => 0x08#8
  | .stream => 0x09#8
  | .badOperand => 0x0A#8
  | .noModule => 0x0B#8

/-- A flag as a field of one bit. -/
def flagBit (b : Bool) : BitVec 1 :=
  BitVec.ofBool b

/-- TAP_STATE, 0 while tap_shadow is UNKNOWN (10_state.md R23, R26). -/
def tapStateField : Option TapState → BitVec 4
  | some s => tapStateCode s
  | none => 0x0#4

/-- STATUS as the host reads it (10_state.md R26), most significant field first. -/
def statusWord (s : State) : Word :=
  s.status.dmaFails ++ faultNumber s.status.faultCode ++ 0#4 ++ tapStateField s.cable.shadow
    ++ flagBit s.cable.shadow.isSome ++ flagBit s.status.inDebug ++ flagBit s.status.skipped
    ++ flagBit s.status.unknownFlash ++ flagBit s.status.unknownCpu ++ flagBit s.status.dmaErr
    ++ flagBit s.status.faulted ++ flagBit s.running.isSome

/-- FAULTED and FAULT_CODE after a fault: the first code stays (60_exceptions.md R190, R191). -/
def faultedStatus (code : FaultCode) (st : Status) : Status :=
  if st.faulted then st else { st with faulted := true, faultCode := code }

/-- `DmaExhausted(addr)` (41_memory_access.md R115): sticky DMA_ERR, and a count that saturates at 0xFF. -/
def exhaustedStatus (st : Status) : Status :=
  { st with
    dmaErr := true
    dmaFails := if st.dmaFails = 0xFF#8 then 0xFF#8 else st.dmaFails + 1#8 }

/-- EJTAGVER, three bits of IMPCODE (30_encoding.md R81). -/
def ejtagVersionOf (b : ImpBits) (impcode : Word) : BitVec 3 :=
  impcode.extractLsb' b.version 3

/-- `dma_capable <- NOT IMPCODE[NODMA]` (30_encoding.md R81). -/
def dmaCapableOf (b : ImpBits) (impcode : Word) : Bool :=
  !impcode.getLsbD b.nodma

end Sys2Proof.Machine
end

