-- ==== Sys2Proof/Machine/Operands.lean ====
section
/-!
DEFINITION. Every operand form and derived value of the commands: data placement and lanes (20_memory.md R52-R56), the
CONTROL values (30_encoding.md R80), NOR and SPI addresses (R83, 45_flash_spi.md R174), operand encodings (R70),
table lookups (40_tap.md R104, 43_flash_probe.md R152-R159), the block table and the erase range, and stream words.
-/

namespace Sys2Proof.Machine

/-! ## Data placement -/

/-- `HW16(h) = {h, h}` (00_scope.md R9, 20_memory.md R53). -/
def hw16 (h : Half) : Word :=
  h ++ h

/-- The low halfword of a value; a 16-bit operand is `B[15:0]` (30_encoding.md R67). -/
def lowHalf (w : Word) : Half :=
  w.extractLsb' 0 16

/-- The high halfword of a value. -/
def highHalf (w : Word) : Half :=
  w.extractLsb' 16 16

/-- A halfword placed in a 32-bit field is zero-extended (00_scope.md R7). -/
def zext (h : Half) : Word :=
  h.setWidth 32

/-- The lane a DMA halfword read takes of DATA (20_memory.md R52). -/
def lane (endian : Endian) (addr d : Word) : Half :=
  if (addr.getLsbD 1 ^^ decide (endian = .big)) = true then highHalf d else lowHalf d

/-- The value a write of a given width puts on the bus: a word as it is, a halfword in both lanes
(20_memory.md R53). -/
def busValue : Width → Word → Word
  | .word, v => v
  | .half, v => hw16 (lowHalf v)

/-- The value with only bit `n` set. -/
def bitMask (n : Nat) : Word :=
  1#32 <<< n

/-! ## CONTROL values (30_encoding.md R79, R80) -/

/-- The DSZ field for a width: 0b10 word, 0b01 halfword (30_encoding.md R79). -/
def sizeField (c : ControlBits) : Width → Word
  | .word => 2#32 <<< c.dsz
  | .half => 1#32 <<< c.dsz

/-- CTL_DMA_RD_W and CTL_DMA_RD_H. -/
def ctlDmaRead (c : ControlBits) (width : Width) : Word :=
  bitMask c.dmaacc ||| bitMask c.drwn ||| sizeField c width ||| bitMask c.dstrt ||| bitMask c.proben
    ||| bitMask c.pracc

/-- CTL_DMA_WR_W and CTL_DMA_WR_H. -/
def ctlDmaWrite (c : ControlBits) (width : Width) : Word :=
  bitMask c.dmaacc ||| sizeField c width ||| bitMask c.dstrt ||| bitMask c.proben ||| bitMask c.pracc

/-- CTL_DMA_POLL. -/
def ctlDmaPoll (c : ControlBits) : Word :=
  bitMask c.dmaacc ||| bitMask c.proben ||| bitMask c.pracc

/-- CTL_DMA_END. -/
def ctlDmaEnd (c : ControlBits) : Word :=
  bitMask c.proben ||| bitMask c.pracc

/-- CTL_PRACC_POLL. -/
def ctlPraccPoll (c : ControlBits) : Word :=
  bitMask c.pracc ||| bitMask c.proben ||| bitMask c.probtrap

/-- CTL_PRACC_DONE. -/
def ctlPraccDone (c : ControlBits) : Word :=
  bitMask c.proben ||| bitMask c.probtrap

/-- CTL_HALT. -/
def ctlHalt (c : ControlBits) : Word :=
  bitMask c.pracc ||| bitMask c.proben ||| bitMask c.probtrap ||| bitMask c.jtagbrk

/-- CTL_RESET. -/
def ctlReset (c : ControlBits) : Word :=
  bitMask c.prrst ||| bitMask c.perrst

/-- CTL_ZERO. -/
def ctlZero : Word :=
  0#32

/-! ## Operand encodings (30_encoding.md R70) -/

/-- CFG_ACCESS operand A. -/
def accessModeOf (a : Word) : Option AccessMode :=
  if a = 0#32 then some .auto
  else if a = 1#32 then some .forceDma
  else if a = 2#32 then some .forcePracc
  else none

/-- CFG_OPTIONS operand A; bits 31:4 must be 0 (40_tap.md R108). -/
def optionsOf (a : Word) : Option Options :=
  if a.extractLsb' 4 28 = 0#28 then
    some { bypass := a.getLsbD 0, st5 := a.getLsbD 1, swapEndian := a.getLsbD 2, reboot := a.getLsbD 3 }
  else none

/-- The seven module ids of EXEC_MODULE operand A. -/
inductive ModuleId where
  | readWord
  | writeWord
  | readHalf
  | writeHalf
  | returnFromDebug
  | readDepc
  | writeDepc
deriving DecidableEq, Repr

/-- EXEC_MODULE operand A (30_encoding.md R70). -/
def moduleIdOf (a : Word) : Option ModuleId :=
  match a.toNat with
  | 0 => some .readWord
  | 1 => some .writeWord
  | 2 => some .readHalf
  | 3 => some .writeHalf
  | 4 => some .returnFromDebug
  | 5 => some .readDepc
  | 6 => some .writeDepc
  | _ => none

/-- The number of a module id. -/
def moduleNumber : ModuleId → Word
  | .readWord => 0#32
  | .writeWord => 1#32
  | .readHalf => 2#32
  | .writeHalf => 3#32
  | .returnFromDebug => 4#32
  | .readDepc => 5#32
  | .writeDepc => 6#32

/-- `P_MODULE[m]`. -/
def moduleWords (p : Params) : ModuleId → List Word
  | .readWord => p.modules.readWord
  | .writeWord => p.modules.writeWord
  | .readHalf => p.modules.readHalf
  | .writeHalf => p.modules.writeHalf
  | .returnFromDebug => p.modules.returnFromDebug
  | .readDepc => p.modules.readDepc
  | .writeDepc => p.modules.writeDepc

/-- The cmd_type tag FLASH_FORCE returns (30_encoding.md R70). -/
def kindTag : Option FlashKind → Word
  | none => 0#32
  | some .amd => 1#32
  | some .sst => 2#32
  | some .bsc => 3#32
  | some .scs => 4#32
  | some .spi => 5#32

/-- The SELECT_AREA operand that names CUSTOM (30_encoding.md R70). -/
def customAreaId : Word :=
  0xFFFFFFFF#32

/-! ## Tables -/

/-- The number of an IR length of the processor table (00_scope.md R6). -/
def tableIrLength : TableIrLength → Nat
  | .four => 4
  | .five => 5
  | .seven => 7
  | .eight => 8

/-- `Lookup(id)` (40_tap.md R104). -/
def procLookup (p : Params) (id : Word) : Option Nat :=
  p.procTable.findIdx? fun d => decide (d.idcode = id)

/-- `FlashLookup(v, d)` (43_flash_probe.md R152). -/
def flashLookup (p : Params) (vendor device : Half) : Option Nat :=
  p.flashTable.findIdx? fun d => decide (d.vendor = vendor) && decide (d.device = device)

/-- The first area of a capacity class and name (43_flash_probe.md R159). -/
def areaLookup (p : Params) (size : Word) (name : String) : Option AreaDescriptor :=
  p.areaTable.find? fun d => decide (d.capacity = size) && decide (d.name = name)

/-- P_SPI_LAYOUT_SELECT (00_scope.md R6). -/
def spiLayoutFor (p : Params) (idcode : Word) : Option SpiFamily :=
  (p.spiLayoutSelect.find? fun e => decide (e.1 = idcode)).map Prod.snd

/-- P_SPI_LAYOUT[x] (45_flash_spi.md R171). -/
def spiRecord (p : Params) : SpiFamily → SpiLayout
  | .atheros => p.atheros
  | .broadcom => p.broadcom

/-- P_FLASH_WINDOW, whose default is P_FLASH_PROBE_BASE (00_scope.md R6). -/
def flashWindowFor (p : Params) (idcode size : Word) : Word :=
  match p.flashWindow.find? fun e => decide (e.1 = idcode) && decide (e.2.1 = size) with
  | some e => e.2.2
  | none => p.flashProbeBase

/-- P_IS_ATHEROS (00_scope.md R6). -/
def isAtheros (p : Params) (idcode : Word) : Bool :=
  p.atherosIdcodes.contains idcode

/-- P_DMA_SKIP_POLL_IDCODES applies to the detected IDCODE (41_memory_access.md R116). -/
def skipsDstrtPoll (p : Params) (s : Session) : Bool :=
  s.idcodeValid && p.skipPollIdcodes.contains s.idcode

/-- P_POLL_TIMEOUT as the number of iterations it allows, at least 1 (00_scope.md R6, 60_exceptions.md R193). -/
def pollBound (p : Params) : Option Nat :=
  p.pollExtra.map (· + 1)

/-- exec_vector_reads in the range 0..2 that 10_state.md R40 gives it. Under VECTOR_REENTRY it is the count itself: the
second read ends the module (42_debug_executor.md R138). Only LAST_WORD can read the vector a third time, and the view
then stays at 2 (assumption 8). -/
def execVectorReads (v : VirtualRegs) : Fin 3 :=
  match v.vectorReads with
  | 0 => 0
  | 1 => 1
  | _ => 2

/-- `RecomputeUseDma()` (41_memory_access.md R128). -/
def useDmaOf (mode : AccessMode) (capable : Bool) : Bool :=
  decide (mode = .forceDma) || (decide (mode = .auto) && capable)

/-! ## Flash addresses -/

/-- `NOR(off) = flash_base + (off << 1)` (30_encoding.md R83). -/
def norAddress (base offset : Word) : Word :=
  base + (offset <<< 1)

/-- `SpiAddr(a) = (a - flash_base) & 0x00FFFFFF` (45_flash_spi.md R174). -/
def spiAddress (base a : Word) : Word :=
  (a - base) &&& 0x00FFFFFF#32

/-- `WindowBase()` (43_flash_probe.md R155), for the flash size the state holds. -/
def windowBase (p : Params) (idcode : Word) (f : Flash) : Word :=
  match f.windowOverride with
  | some base => base
  | none =>
      match f.index with
      | none => p.flashProbeBase
      | some _ => flashWindowFor p idcode f.size

/-- `count` blocks of one region from address `a` on, with the address after them (43_flash_probe.md R156). -/
def regionBlocks (size : Word) : Nat → Word → List Word × Word
  | 0, a => ([], a)
  | count + 1, a =>
      let rest := regionBlocks size count (a + size)
      (a :: rest.1, rest.2)

/-- The walk of the regions (43_flash_probe.md R156). -/
def walkRegions : List Region → Word → List Word
  | [], _ => []
  | r :: rest, a =>
      let here := regionBlocks r.size r.count.toNat a
      here.1 ++ walkRegions rest here.2

/-- The regions of a flash table entry; an index outside the table, which no command stores, has none
(assumption 18). -/
def regionsOf (p : Params) (index : Nat) : List Region :=
  match p.flashTable[index]? with
  | some d => d.regions.list
  | none => []

/-- `BuildBlockTable()` (43_flash_probe.md R156); empty while no descriptor is selected (10_state.md R36). -/
def blockTableOf (p : Params) (index : Option Nat) (base : Word) : List Word :=
  match index with
  | some k => walkRegions (regionsOf p k) base
  | none => []

/-- `SelectBlocks()` (46_area_ops.md R183): the end of the range is an exact integer. -/
def selectBlocks (table : List Word) (start length : Word) : List Word :=
  table.filter fun a => decide (start.toNat ≤ a.toNat) && decide (a.toNat < start.toNat + length.toNat)

/-- `ceil(area_length / 4)` words (46_area_ops.md R182). -/
def wordCount (length : Word) : Nat :=
  (length.toNat + 3) / 4

/-- The address of the n-th word of an area, modulo 2^32 (46_area_ops.md R182, 20_memory.md R50). -/
def wordAddress (start : Word) (n : Nat) : Word :=
  start + BitVec.ofNat 32 (4 * n)

/-! ## Stream words (20_memory.md R56, 46_area_ops.md R180) -/

/-- The four bytes of a word in stream order. -/
def streamBytes (swap : Bool) (w : Word) : List Byte :=
  let big := [w.extractLsb' 24 8, w.extractLsb' 16 8, w.extractLsb' 8 8, w.extractLsb' 0 8]
  if swap then big.reverse else big

/-- The word that four bytes in stream order make. -/
def streamWord (swap : Bool) (b0 b1 b2 b3 : Byte) : Word :=
  if swap then b3 ++ b2 ++ b1 ++ b0 else b0 ++ b1 ++ b2 ++ b3

/-- `take() -> (w, eof)`, with the bytes it leaves: missing bytes are 0xFF, and eof is 1 where any was missing
(46_area_ops.md R180). -/
def takeWord (swap : Bool) : List Byte → (Word × Bool) × List Byte
  | [] => ((streamWord swap 0xFF#8 0xFF#8 0xFF#8 0xFF#8, true), [])
  | [b0] => ((streamWord swap b0 0xFF#8 0xFF#8 0xFF#8, true), [])
  | [b0, b1] => ((streamWord swap b0 b1 0xFF#8 0xFF#8, true), [])
  | [b0, b1, b2] => ((streamWord swap b0 b1 b2 0xFF#8, true), [])
  | b0 :: b1 :: b2 :: b3 :: rest => ((streamWord swap b0 b1 b2 b3, false), rest)

end Sys2Proof.Machine
end

