-- ==== Sys2Proof/Machine/Ops.lean ====
section
/-!
DEFINITION. The shared operations. An operation (`Op`) runs on the engine with a budget of cable clocks; it ends with a
value, with a fault taken (60_exceptions.md R190), or paused because its clocks are used up (R194, assumption 1).
In order: the pseudocode primitives of 00_scope.md R8, the TAP operations (40_tap.md R94, R96, R98), polls
(60_exceptions.md R193), command preconditions (40_tap.md R93, 44_flash_parallel.md R160), and the frame every command
runs in. Taking a fault is `raiseFault`; the return from one is `blockReset`.
-/

namespace Sys2Proof.Machine

/-- What an operation runs on. -/
structure Run where
  eng : Engine
  /-- cable clocks it may still drive in this step -/
  budget : Nat
deriving DecidableEq, Repr

/-- Why an operation ended before its end. -/
inductive Stop where
  /-- A fault was taken: the command is over (60_exceptions.md R190). -/
  | faulted
  /-- The step's clocks are used up: the command is still busy (60_exceptions.md R194). -/
  | paused
deriving DecidableEq, Repr

/-- An operation on the engine; the state it reached is kept however it ends. -/
abbrev Op (α : Type) := EStateM Stop Run α

/-- Read the engine. -/
def getEngine : Op Engine :=
  fun r => .ok r.eng r

/-- Replace the engine. -/
def modifyEngine (f : Engine → Engine) : Op Unit :=
  fun r => .ok () { r with eng := f r.eng }

/-- Stop here, still busy. -/
def pauseHere {α : Type} : Op α :=
  fun r => .error .paused r

/-! ## Engine updates, one group at a time -/

/-- Replace the host registers. -/
def setRegs (f : HostRegs → HostRegs) (e : Engine) : Engine := { e with regs := f e.regs }
/-- Replace the stored STATUS fields. -/
def setStatus (f : Status → Status) (e : Engine) : Engine := { e with status := f e.status }
/-- Replace the cable. -/
def setCable (f : Cable → Cable) (e : Engine) : Engine := { e with cable := f e.cable }
/-- Replace the TAP session. -/
def setTap (f : TapSession → TapSession) (e : Engine) : Engine := { e with tap := f e.tap }
/-- Replace the EJTAG session. -/
def setSession (f : Session → Session) (e : Engine) : Engine := { e with session := f e.session }
/-- Replace the flash fields. -/
def setFlash (f : Flash → Flash) (e : Engine) : Engine := { e with flash := f e.flash }
/-- Replace the area fields. -/
def setArea (f : Area → Area) (e : Engine) : Engine := { e with area := f e.area }
/-- Replace the option bits. -/
def setOptions (o : Options) (e : Engine) : Engine := { e with options := o }
/-- Replace the virtual registers. -/
def setVregs (f : VirtualRegs → VirtualRegs) (e : Engine) : Engine := { e with vregs := f e.vregs }
/-- Replace the streams. -/
def setStreams (f : Streams → Streams) (e : Engine) : Engine := { e with streams := f e.streams }
/-- Record one target access. -/
def recordAccess (a : Access) (e : Engine) : Engine := { e with bus := e.bus ++ [a] }

/-- RESULT is written (10_state.md R25). -/
def setResult (v : Word) : Engine → Engine :=
  setRegs fun r => { r with result := v }

/-- `RESULT <- v`. -/
def writeResult (v : Word) : Op Unit :=
  modifyEngine (setResult v)

/-! ## Taking a fault, and the return from one -/

/-- The engine after `raise F_X(info)` (60_exceptions.md R190): the first code stays, FAULTED is set, info goes to
RESULT. BUSY is cleared by the command ending. -/
def faultedEngine (code : FaultCode) (info : Word) (e : Engine) : Engine :=
  setResult info (setStatus (faultedStatus code) e)

/-- `raise F_X(info)`: nothing after it happens (60_exceptions.md R190). -/
def raiseFault {α : Type} (code : FaultCode) (info : Word) : Op α :=
  fun r => .error .faulted { r with eng := faultedEngine code info r.eng }

/-- A fault whose info is the command word (60_exceptions.md R188). -/
def raiseWithCommand {α : Type} (code : FaultCode) : Op α :=
  fun r => raiseFault code r.eng.regs.cmd r

/-- Block reset (70_reset_and_hazards.md R202): every field at its reset value, a running command abandoned. What lies
outside the block stays: the parameters, the environment's TDO bits, the records of what was driven, and what the
host has yet to do (assumption 13). -/
def blockReset (s : State) : State :=
  { Engine.reset s.cfg with
    cable := { s.cable with shadow := none }
    streams := s.streams
    bus := s.bus
    host := s.host
    running := none }

/-! ## The TAP operations -/

/-- Drive a run of clocks and return their TDO bits; where the budget ends first, drive what it allows and pause. -/
def driveClocks (ks : List CableClock) : Op (List Bool) :=
  fun r =>
    if ks.length ≤ r.budget then
      let run := runClocks ks r.eng.cable
      .ok run.1 { eng := setCable (fun _ => run.2) r.eng, budget := r.budget - ks.length }
    else
      let run := runClocks (ks.take r.budget) r.eng.cable
      .error .paused { eng := setCable (fun _ => run.2) r.eng, budget := 0 }

/-- `TestReset()` (40_tap.md R94). -/
def testReset : Op Unit := do
  let _ ← driveClocks resetSequence
  modifyEngine (setCable fun c => { c with shadow := some .testLogicReset })
  let _ ← driveClocks resetExit
  modifyEngine (setTap fun t => { t with irCache := none })

/-- `SetIR(instr)` (40_tap.md R96): nothing at all when the cached instruction is the same in all 32 bits. -/
def setIR (instr : Word) : Op Unit := do
  let e ← getEngine
  match e.tap.irLength with
  | none => raiseFault .noIrLen instr
  | some length =>
      if e.tap.irCache = some instr then pure ()
      else do
        let _ ← driveClocks (irSequence length instr)
        modifyEngine (setTap fun t => { t with irCache := some instr })

/-- `RWData(v) -> u32` (40_tap.md R98). -/
def rwData (v : Word) : Op Word := do
  let tdo ← driveClocks (drSequence v)
  pure (capturedWord tdo)

/-- `SetIR(CONTROL)`. -/
def selectControl : Op Unit := do
  let e ← getEngine
  setIR e.cfg.ir.control

/-- `SetIR(ADDRESS)`. -/
def selectAddress : Op Unit := do
  let e ← getEngine
  setIR e.cfg.ir.address

/-- `SetIR(DATA)`. -/
def selectData : Op Unit := do
  let e ← getEngine
  setIR e.cfg.ir.data

/-- PROC_RESET's CONTROL sequence (41_memory_access.md R129), which SESSION_END also uses (46_area_ops.md R186). -/
def resetProcessor : Op Unit := do
  selectControl
  let e ← getEngine
  let _ ← rwData (ctlReset e.cfg.ctl)
  let _ ← rwData ctlZero
  pure ()

/-! ## Polls -/

/-- Give up after P_POLL_TIMEOUT iterations, if there is a bound (60_exceptions.md R193). -/
def checkTimeout (iterations : Nat) (site : Word) : Op Unit := do
  let e ← getEngine
  match pollBound e.cfg with
  | some n => if n ≤ iterations then raiseFault .timeout site else pure ()
  | none => pure ()

/-- The loop of `poll until` (60_exceptions.md R193). The first argument only bounds the recursion: every body drives
clocks, so the budget is used up before it is. -/
def pollLoop {α : Type} (site : Word) (body : Op α) (ready : α → Bool) : Nat → Nat → Op α
  | 0, _ => pauseHere
  | turns + 1, i => do
      let x ← body
      if ready x then pure x
      else do
        checkTimeout (i + 1) site
        pollLoop site body ready turns (i + 1)

/-- `poll until C` at a site (60_exceptions.md R193), returning the value that met C. -/
def pollUntil {α : Type} (site : Word) (body : Op α) (ready : α → Bool) : Op α :=
  fun r => pollLoop site body ready (r.budget + 1) 0 r

/-! ## Command preconditions -/

/-- The classes of 40_tap.md R93. -/
inductive CommandClass where
  | noClocks
  | selfSynchronising
  | drOnly
  | irUsing
deriving DecidableEq, Repr

/-- `tap_shadow == RUN_TEST_IDLE`, else F_TAP_UNSYNC (40_tap.md R93). -/
def requireIdleTap : Op Unit := do
  let e ← getEngine
  if e.cable.shadow = some .runTestIdle then pure () else raiseWithCommand .tapUnsync

/-- `ir_length != UNSET`, else F_NO_IRLEN (40_tap.md R93). -/
def requireIrLength : Op Unit := do
  let e ← getEngine
  if e.tap.irLength = none then raiseWithCommand .noIrLen else pure ()

/-- The checks of a class, in the order of 40_tap.md R93. -/
def checkClass : CommandClass → Op Unit
  | .noClocks => pure ()
  | .selfSynchronising => pure ()
  | .drOnly => requireIdleTap
  | .irUsing => do
      requireIdleTap
      requireIrLength

/-- F_NO_FLASH while no flash type is known (44_flash_parallel.md R160, item 1). -/
def requireFlash : Op Unit := do
  let e ← getEngine
  if e.flash.cmdType = none then raiseWithCommand .noFlash else pure ()

/-- F_UNSUPPORTED unless the part is AMD or SST (44_flash_parallel.md R160, item 2). -/
def requireBypassPart : Op Unit := do
  let e ← getEngine
  if e.flash.cmdType = some .amd ∨ e.flash.cmdType = some .sst then pure () else raiseWithCommand .unsupported

/-- F_UNSUPPORTED unless the part is SPI (44_flash_parallel.md R160, item 3). -/
def requireSpiPart : Op Unit := do
  let e ← getEngine
  if e.flash.cmdType = some .spi then pure () else raiseWithCommand .unsupported

/-- F_UNSUPPORTED for an SPI part without a controller layout (44_flash_parallel.md R160, item 4). -/
def requireSpiLayout : Op Unit := do
  let e ← getEngine
  if e.flash.cmdType = some .spi ∧ e.session.spiLayout = none then raiseWithCommand .unsupported else pure ()

/-! ## The frame every command runs in -/

/-- The commands that run while FAULTED = 1 (60_exceptions.md R191). -/
def runsWhileFaulted (i : Instr) : Bool :=
  decide (i = .tapReset) || decide (i = .sessionEnd)

/-- Where a command starts in this step, and the clocks it may have driven from there by the step's end: from the
state itself, or, if it is the command in progress, from the state it began in (assumption 1). -/
def startPoint (i : Instr) (s : State) : Engine × Nat :=
  match s.running with
  | some r =>
      if r.instr = i then (r.start, r.budget + s.cfg.clocksPerStep + 1)
      else (s.toEngine, s.cfg.clocksPerStep + 1)
  | none => (s.toEngine, s.cfg.clocksPerStep + 1)

/-- The state after an operation that began at an engine with a budget: BUSY stays 1 only where it paused. -/
def settle (i : Instr) (s : State) (start : Engine) (budget : Nat) : EStateM.Result Stop Run Unit → State
  | .ok _ r => { s with toEngine := r.eng, running := none }
  | .error .faulted r => { s with toEngine := r.eng, running := none }
  | .error .paused r => { s with toEngine := r.eng, running := some ⟨i, start, budget⟩ }

/-- Run a command: refused while FAULTED = 1, which changes no field (60_exceptions.md R191), else its class's checks and then its own
operation (R189), as far as this step's clocks go. A command in progress goes on from where its clocks ended: it is
run again from its start with more of them, and the TDO bits it meets are the same (assumption 1). -/
def runCommand (i : Instr) (c : CommandClass) (body : Op Unit) (s : State) : Host.Outcome State Fault Refusal :=
  let p := startPoint i s
  if p.1.status.faulted && !runsWhileFaulted i then
    .next { s with toEngine := p.1, running := none }
  else
    .next (settle i s p.1 p.2 ((do checkClass c; body : Op Unit) { eng := p.1, budget := p.2 }))

end Sys2Proof.Machine
end

