-- ==== Sys2Proof/Machine/MemoryAccess.lean ====
section
/-!
DEFINITION. The EJTAG memory-access orchestrators: the DMA strategy (41_memory_access.md R114-R116), the debug module
executor (42_debug_executor.md R134-R144), the PrAcc strategy (R121), and the dispatching primitives (R109).
-/

namespace Sys2Proof.Machine

/-! ## DMA (41_memory_access.md R114-R116) -/

/-- The DSTRT poll, skipped for an erratum IDCODE (R114, R116). -/
def waitDma (addr : Word) : Op Unit := do
  let e ← getEngine
  if skipsDstrtPoll e.cfg e.session then pure ()
  else do
    let _ ← pollUntil addr (rwData (ctlDmaPoll e.cfg.ctl)) fun c => !c.getLsbD e.cfg.ctl.dstrt
    pure ()

/-- The final CONTROL access of an attempt; true when DERR reads 1 (R114). -/
def endDma : Op Bool := do
  selectControl
  let e ← getEngine
  let c ← rwData (ctlDmaEnd e.cfg.ctl)
  pure (c.getLsbD e.cfg.ctl.derr)

/-- One attempt of a DMA read: the DATA value and whether it failed (R114). -/
def dmaReadAttempt (addr : Word) (width : Width) : Op (Word × Bool) := do
  selectAddress
  let _ ← rwData addr
  selectControl
  let e ← getEngine
  let _ ← rwData (ctlDmaRead e.cfg.ctl width)
  waitDma addr
  selectData
  let d ← rwData 0#32
  let failed ← endDma
  pure (d, failed)

/-- One attempt of a DMA write: DATA is written before CONTROL starts the transaction (R114, conflict C5). The value
returned is no datum: a write reads none. -/
def dmaWriteAttempt (addr : Word) (width : Width) (v : Word) : Op (Word × Bool) := do
  selectAddress
  let _ ← rwData addr
  selectData
  let _ ← rwData (busValue width v)
  selectControl
  let e ← getEngine
  let _ ← rwData (ctlDmaWrite e.cfg.ctl width)
  waitDma addr
  let failed ← endDma
  pure (0#32, failed)

/-- Up to `n` attempts; when the last fails too the transaction is exhausted and its last datum stands
(R114, R115, conflict C3). -/
def dmaAttempts (attempt : Op (Word × Bool)) : Nat → Op Word
  | 0 => pure 0#32
  | n + 1 => do
      let x ← attempt
      if x.2 then
        if n = 0 then do
          modifyEngine (setStatus exhaustedStatus)
          pure x.1
        else dmaAttempts attempt n
      else pure x.1

/-- `DmaRead(addr, n)` (R114): a halfword is the lane of the last datum, zero-extended (20_memory.md R52). -/
def dmaRead (addr : Word) (width : Width) : Op Word := do
  modifyEngine (recordAccess (.read width addr))
  let d ← dmaAttempts (dmaReadAttempt addr width) Config.dmaAttempts
  let e ← getEngine
  match width with
  | .word => pure d
  | .half => pure (zext (lane e.cfg.endian addr d))

/-- `DmaWrite(addr, n, v)` (R114). -/
def dmaWrite (addr : Word) (width : Width) (v : Word) : Op Unit := do
  modifyEngine (recordAccess (.write width addr (busValue width v)))
  let _ ← dmaAttempts (dmaWriteAttempt addr width v) Config.dmaAttempts
  pure ()

/-! ## The debug module executor (42_debug_executor.md) -/

/-- When a module run ends (R134, R138). -/
inductive Termination where
  | vectorReentry
  | lastWord
deriving DecidableEq, Repr

/-- `WaitPending()` (R135): the CONTROL value that showed PRACC = 1. -/
def waitPending : Op Word := do
  let e ← getEngine
  pollUntil e.cfg.debugVector (rwData (ctlPraccPoll e.cfg.ctl)) fun c => c.getLsbD e.cfg.ctl.pracc

/-- Clear the pending access (R137, R141). -/
def completeAccess : Op Unit := do
  selectControl
  let e ← getEngine
  let _ ← rwData (ctlPraccDone e.cfg.ctl)
  pure ()

/-- Where a write of the target lands: a virtual register, or nowhere (R137). -/
def storeVirtual (p : Params) (a d : Word) (v : VirtualRegs) : VirtualRegs :=
  if a = p.vregAddr then { v with address := d }
  else if a = p.vregData then { v with data := d }
  else v

/-- `ServeWrite(a)` (R137). -/
def serveWrite (a : Word) : Op Unit := do
  selectData
  let d ← rwData 0#32
  modifyEngine (setVregs fun v => { v with execData := d })
  completeAccess
  modifyEngine fun e => setVregs (storeVirtual e.cfg a d) e

/-- `Supply(d)` (R141). -/
def supply (d : Word) : Op Unit := do
  selectData
  let _ ← rwData d
  modifyEngine (setVregs fun v => { v with execData := d })
  completeAccess

/-- The module offset of a fetch address (R139). -/
def moduleOffset (p : Params) (a : Word) : Nat :=
  ((a - p.debugVector) >>> 2).toNat

/-- `ReadValue(mod, a)` (R139, R140): a module word with its offset, or a virtual register, or exec_data. -/
def readValue (words : List Word) (a : Word) : Op (Word × Option Nat) := do
  let e ← getEngine
  if e.cfg.debugVector ≤ a then
    match words[moduleOffset e.cfg a]? with
    | some d => pure (d, some (moduleOffset e.cfg a))
    | none => raiseFault .moduleRange a
  else if a = e.cfg.vregAddr then pure (e.vregs.address, none)
  else if a = e.cfg.vregData then pure (e.vregs.data, none)
  else pure (e.vregs.execData, none)

/-- Serve a read; true when it supplied the module's last word under LAST_WORD termination (R134, R138). -/
def serveRead (words : List Word) (term : Termination) (a : Word) : Op Bool := do
  let x ← readValue words a
  supply x.1
  pure (decide (term = .lastWord) && decide (x.2 = some (words.length - 1)))

/-- Serve the pending access at address `a`, whose CONTROL value was `c`; true ends the module run (R134, R138). -/
def serveAccess (words : List Word) (term : Termination) (c a : Word) : Op Bool := do
  let e ← getEngine
  if c.getLsbD e.cfg.ctl.prnw then do
    serveWrite a
    pure false
  else if a = e.cfg.debugVector then do
    modifyEngine (setVregs fun v => { v with vectorReads := v.vectorReads + 1 })
    if e.vregs.vectorReads + 1 = 2 ∧ term = .vectorReentry then pure true
    else serveRead words term a
  else serveRead words term a

/-- The executor's loop (R134); the service bound is R142. The first number only bounds the recursion: every turn
drives clocks, so the budget is used up before it is. -/
def serviceLoop (words : List Word) (term : Termination) : Nat → Nat → Op Unit
  | 0, _ => pauseHere
  | turns + 1, serviced => do
      selectControl
      let c ← waitPending
      selectAddress
      let a ← rwData 0#32
      let finished ← serveAccess words term c a
      if finished then pure ()
      else do
        checkTimeout (serviced + 1) a
        serviceLoop words term turns (serviced + 1)

/-- The loop with as many turns as the budget can feed. -/
def serviceAccesses (words : List Word) (term : Termination) : Op Unit :=
  fun r => serviceLoop words term (r.budget + 1) 0 r

/-- `ExecModule(m, term)` (R134). -/
def runModule (m : ModuleId) (term : Termination) : Op Unit := do
  let e ← getEngine
  if (moduleWords e.cfg m).isEmpty then raiseFault .noModule (moduleNumber m)
  else do
    modifyEngine (setVregs fun v => { v with vectorReads := 0 })
    serviceAccesses (moduleWords e.cfg m) term

/-! ## Modules a command needs (60_exceptions.md R189)

F_NO_MODULE is one of the checks made before a command changes any state or drives any clock. So a command first
checks the modules that it is sure to run (assumption 9).
-/

/-- F_NO_MODULE for the first module of a list that has no words (42_debug_executor.md R134). -/
def requireModules : List ModuleId → Op Unit
  | [] => pure ()
  | m :: rest => do
      let e ← getEngine
      if (moduleWords e.cfg m).isEmpty then raiseFault .noModule (moduleNumber m) else requireModules rest

/-- The check of the modules that the MemRead and MemWrite of a command are sure to run, in order of use: they run none
under the DMA strategy (41_memory_access.md R109). -/
def requireAccesses (uses : List ModuleId) : Op Unit := do
  let e ← getEngine
  if e.session.useDma then pure () else requireModules uses

/-- The module of a PrAcc read (41_memory_access.md R121). -/
def readModule : Width → ModuleId
  | .word => .readWord
  | .half => .readHalf

/-- The module of a PrAcc write (41_memory_access.md R121). -/
def writeModule : Width → ModuleId
  | .word => .writeWord
  | .half => .writeHalf

/-! ## PrAcc (41_memory_access.md R121) -/

/-- `address_register <- addr | P_KSEG1_BIT` (R121, 20_memory.md R55). -/
def presentAddress (addr : Word) : Op Unit :=
  modifyEngine fun e => setVregs (fun v => { v with address := addr ||| e.cfg.kseg1Bit }) e

/-- `data_register <- v`. -/
def presentData (v : Word) : Op Unit :=
  modifyEngine (setVregs fun r => { r with data := v })

/-- `PraccRead(addr, n)` (R121): the result is taken from data_register. A missing module is found before any change
(60_exceptions.md R189). -/
def praccRead (addr : Word) (width : Width) : Op Word := do
  requireModules [readModule width]
  modifyEngine (recordAccess (.read width addr))
  presentAddress addr
  runModule (readModule width) .vectorReentry
  let e ← getEngine
  match width with
  | .word => pure e.vregs.data
  | .half => pure (zext (lowHalf e.vregs.data))

/-- `PraccWrite(addr, n, v)` (R121, 20_memory.md R53), with the same check first. -/
def praccWrite (addr : Word) (width : Width) (v : Word) : Op Unit := do
  requireModules [writeModule width]
  modifyEngine (recordAccess (.write width addr (busValue width v)))
  presentAddress addr
  presentData (busValue width v)
  runModule (writeModule width) .vectorReentry

/-! ## Dispatch (41_memory_access.md R109) -/

/-- `MemRead(addr, n)`. -/
def memRead (addr : Word) (width : Width) : Op Word := do
  let e ← getEngine
  if e.session.useDma then dmaRead addr width else praccRead addr width

/-- `MemWrite(addr, n, v)`. -/
def memWrite (addr : Word) (width : Width) (v : Word) : Op Unit := do
  let e ← getEngine
  if e.session.useDma then dmaWrite addr width v else praccWrite addr width v

/-- `W(a, d)`, one halfword command cycle (44_flash_parallel.md). -/
def norWrite (a : Word) (d : Half) : Op Unit :=
  memWrite a .half (zext d)

/-- `R(a)`, a halfword read (44_flash_parallel.md). -/
def norRead (a : Word) : Op Half := do
  let w ← memRead a .half
  pure (lowHalf w)

end Sys2Proof.Machine
end

