-- ==== Sys2Proof/Machine/FlashCycles.lean ====
section
/-!
DEFINITION. The command cycles of the parallel NOR families (30_encoding.md R83-R86, 44_flash_parallel.md) and the
transactions of the SPI controller (45_flash_spi.md R171-R173): what the flash sequencers are made of.
-/

namespace Sys2Proof.Machine

/-! ## The modules of the sequences (60_exceptions.md R189, assumption 9) -/

/-- The modules an erase or a program of a family runs under the PrAcc strategy: every one writes first and polls
after (44_flash_parallel.md R162-R167, 45_flash_spi.md R172). -/
def changeModules : Option FlashKind → List ModuleId
  | some .spi => [.writeWord, .readWord]
  | some .amd => [.writeHalf, .readHalf]
  | some .sst => [.writeHalf, .readHalf]
  | some .bsc => [.writeHalf, .readHalf]
  | some .scs => [.writeHalf, .readHalf]
  | none => []

/-- The modules a reset-to-read of a family runs (44_flash_parallel.md R168). -/
def resetModules : Option FlashKind → List ModuleId
  | some .spi => []
  | some .amd => [.writeHalf]
  | some .sst => [.writeHalf]
  | some .bsc => [.writeHalf]
  | some .scs => [.writeHalf]
  | none => []

/-- The checks of a command that erases or programs the selected part. -/
def requireChangeAccesses : Op Unit := do
  let e ← getEngine
  requireAccesses (changeModules e.flash.cmdType)

/-- The checks of a command that returns the selected part to read mode. -/
def requireResetAccesses : Op Unit := do
  let e ← getEngine
  requireAccesses (resetModules e.flash.cmdType)

/-- The checks of a command that leaves bypass mode, or enters it: cycles are issued only if the bit changes
(44_flash_parallel.md R169, R170). -/
def requireBypassAccesses (entering : Bool) : Op Unit := do
  let e ← getEngine
  if e.flash.bypassActive = entering then pure () else requireAccesses [.writeHalf]

/-- The modules that a probe is sure to run: those of its NOR trials, the first of which always runs; and those of its SPI
trial, if there is a layout and no table entry that an earlier trial could find (43_flash_probe.md R147, R151, R152). -/
def probeModules (p : Params) (layout : Option SpiFamily) : List ModuleId :=
  [.writeHalf, .readHalf] ++ if layout.isSome && p.flashTable.isEmpty then [.writeWord, .readWord] else []

/-- The checks of a probe. An SPI trial that depends on what the target answers is no ground for a fault before it is
reached: later trials are not run after a match (43_flash_probe.md R147, assumption 9). -/
def requireProbeAccesses : Op Unit := do
  let e ← getEngine
  requireAccesses (probeModules e.cfg e.session.spiLayout)

/-! ## AMD-style cycles (30_encoding.md R84, R85) -/

/-- The AMD-style command table of a part: SST's for SST, else AMD's (30_encoding.md R84, R85). -/
def amdTable (p : Params) (kind : Option FlashKind) : AmdCommands :=
  if kind = some .sst then p.sst else p.amd

/-- The AMD-style command table of the selected part. -/
def partCommands : Op AmdCommands := do
  let e ← getEngine
  pure (amdTable e.cfg e.flash.cmdType)

/-- One cycle at a magic-word offset (30_encoding.md R83). -/
def offsetCycle (offset : Word) (d : Half) : Op Unit := do
  let e ← getEngine
  norWrite (norAddress e.flash.base offset) d

/-- One cycle at the window base. -/
def baseCycle (d : Half) : Op Unit := do
  let e ← getEngine
  norWrite e.flash.base d

/-- UNLOCK1. -/
def amdUnlock1 (t : AmdCommands) : Op Unit := offsetCycle t.unlock1Offset t.unlock1
/-- UNLOCK2. -/
def amdUnlock2 (t : AmdCommands) : Op Unit := offsetCycle t.unlock2Offset t.unlock2
/-- AUTOSELECT. -/
def amdAutoselect (t : AmdCommands) : Op Unit := offsetCycle t.unlock1Offset t.autoselect
/-- ERASE_SETUP. -/
def amdEraseSetup (t : AmdCommands) : Op Unit := offsetCycle t.unlock1Offset t.eraseSetup
/-- SECTOR_ERASE, at the block address. -/
def amdSectorErase (t : AmdCommands) (a : Word) : Op Unit := norWrite a t.sectorErase
/-- PROGRAM. -/
def amdProgram (t : AmdCommands) : Op Unit := offsetCycle t.unlock1Offset t.program
/-- BYPASS_ENTER. -/
def amdBypassEnter (t : AmdCommands) : Op Unit := offsetCycle t.unlock1Offset t.bypassEnter
/-- BYPASS_PROGRAM. -/
def amdBypassProgram (t : AmdCommands) : Op Unit := baseCycle t.bypassProgram
/-- BYPASS_EXIT1. -/
def amdBypassExit1 (t : AmdCommands) : Op Unit := baseCycle t.bypassExit1
/-- BYPASS_EXIT2. -/
def amdBypassExit2 (t : AmdCommands) : Op Unit := baseCycle t.bypassExit2
/-- RESET. -/
def amdReset (t : AmdCommands) : Op Unit := baseCycle t.reset

/-- The two unlock cycles. -/
def amdUnlock (t : AmdCommands) : Op Unit := do
  amdUnlock1 t
  amdUnlock2 t

/-! ## BSC/SCS cycles (30_encoding.md R86) -/

/-- CLEAR_STATUS, at the address it concerns. -/
def bscClearStatus (a : Word) : Op Unit := do
  let e ← getEngine
  norWrite a e.cfg.bsc.clearStatus
/-- UNLOCK_SETUP. -/
def bscUnlockSetup (a : Word) : Op Unit := do
  let e ← getEngine
  norWrite a e.cfg.bsc.unlockSetup
/-- CONFIRM. -/
def bscConfirm (a : Word) : Op Unit := do
  let e ← getEngine
  norWrite a e.cfg.bsc.confirm
/-- ERASE_SETUP. -/
def bscEraseSetup (a : Word) : Op Unit := do
  let e ← getEngine
  norWrite a e.cfg.bsc.eraseSetup
/-- READ_STATUS. -/
def bscReadStatus (a : Word) : Op Unit := do
  let e ← getEngine
  norWrite a e.cfg.bsc.readStatus
/-- PROGRAM_SETUP. -/
def bscProgramSetup (a : Word) : Op Unit := do
  let e ← getEngine
  norWrite a e.cfg.bsc.programSetup
/-- READ_ID, at the window base. -/
def bscReadId : Op Unit := do
  let e ← getEngine
  baseCycle e.cfg.bsc.readId
/-- READ_ARRAY, at the window base. -/
def bscReadArray : Op Unit := do
  let e ← getEngine
  baseCycle e.cfg.bsc.readArray

/-! ## SPI transactions (45_flash_spi.md R171-R173) -/

/-- The SPI operations of 30_encoding.md R89. -/
inductive SpiOp where
  | wren
  | rdsr
  | pp
  | se
  | be
  | rdid
deriving DecidableEq, Repr

/-- `L.code[op]` (45_flash_spi.md R171). -/
def spiCode (c : SpiCodes) : SpiOp → Word
  | .wren => c.wren
  | .rdsr => c.rdsr
  | .pp => c.pp
  | .se => c.se
  | .be => c.be
  | .rdid => c.rdid

/-- The control word that starts a transaction: `L.start | L.code[op]` (45_flash_spi.md R172). -/
def spiControlWord (l : SpiLayout) (op : SpiOp) : Word :=
  l.start ||| spiCode l.code op

/-- The write that starts a transaction (45_flash_spi.md R172). -/
def spiStart (l : SpiLayout) (op : SpiOp) : Op Unit :=
  memWrite l.ctrlReg .word (spiControlWord l op)

/-- The busy poll (45_flash_spi.md R172). -/
def spiWaitBusy (l : SpiLayout) : Op Unit := do
  let _ ← pollUntil l.ctrlReg (memRead l.ctrlReg .word) fun c => !c.getLsbD l.busyBit
  pure ()

/-- An optional register write of a transaction. -/
def spiPut (reg : Word) : Option Word → Op Unit
  | some v => memWrite reg .word v
  | none => pure ()

/-- `SpiCmd(op, addr, data)` without its data read: address, data, control, busy poll (45_flash_spi.md R172). -/
def spiTransaction (l : SpiLayout) (op : SpiOp) (addr data : Option Word) : Op Unit := do
  spiPut l.addrReg addr
  spiPut l.dataReg data
  spiStart l op
  spiWaitBusy l

/-- `SpiCmd` of RDSR and RDID, which read the data register at the end (45_flash_spi.md R172). -/
def spiQuery (l : SpiLayout) (op : SpiOp) : Op Word := do
  spiTransaction l op none none
  memRead l.dataReg .word

/-- The layout record of the state, which the preconditions have found present (44_flash_parallel.md R160): an
operation on it, F_UNSUPPORTED without one. -/
def withSpiLayout {α : Type} (f : SpiLayout → Op α) : Op α := do
  let e ← getEngine
  match e.session.spiLayout with
  | some x => f (spiRecord e.cfg x)
  | none => raiseWithCommand .unsupported

/-- `SpiWaitWip()`: one RDSR transaction a turn, until WIP = 0 (45_flash_spi.md R173). -/
def spiWaitWip (l : SpiLayout) : Op Unit := do
  let e ← getEngine
  let _ ← pollUntil l.dataReg (spiQuery l .rdsr) fun v => !v.getLsbD e.cfg.wipBit
  pure ()

end Sys2Proof.Machine
end

