-- ==== Sys2Proof/Machine/Tap.lean ====
section
/-!
DEFINITION. The TAP commands and the session configuration (40_tap.md R95-R108). Operands are the registers A and B
(30_encoding.md R67).
-/

namespace Sys2Proof.Machine

/-- TAP_RESET (40_tap.md R95). -/
def execTapReset (s : State) : Host.Outcome State Fault Refusal :=
  runCommand .tapReset .selfSynchronising testReset s

/-- TAP_SETIR (40_tap.md R97). -/
def execTapSetir (s : State) : Host.Outcome State Fault Refusal :=
  runCommand .tapSetir .irUsing (do
    let e ← getEngine
    setIR e.regs.a) s

/-- TAP_RWDATA (40_tap.md R99). -/
def execTapRwdata (s : State) : Host.Outcome State Fault Refusal :=
  runCommand .tapRwdata .drOnly (do
    let e ← getEngine
    let v ← rwData e.regs.a
    writeResult v) s

/-- TAP_RDATA (40_tap.md R100). -/
def execTapRdata (s : State) : Host.Outcome State Fault Refusal :=
  runCommand .tapRdata .drOnly (do
    let v ← rwData 0#32
    writeResult v) s

/-- TAP_WDATA (40_tap.md R101). -/
def execTapWdata (s : State) : Host.Outcome State Fault Refusal :=
  runCommand .tapWdata .drOnly (do
    let e ← getEngine
    let _ ← rwData e.regs.a
    pure ()) s

/-- CFG_IRLEN's operation (40_tap.md R102). -/
def setIrLength : Op Unit := do
  let e ← getEngine
  if legalIrLength e.regs.a.toNat then
    modifyEngine (setTap fun _ => { irCache := none, irLength := some e.regs.a.toNat })
  else raiseFault .badOperand e.regs.a

/-- CFG_IRLEN (40_tap.md R102). -/
def execCfgIrlen (s : State) : Host.Outcome State Fault Refusal :=
  runCommand .cfgIrlen .noClocks setIrLength s

/-- `ReadId(L)` (40_tap.md R103). -/
def readId (length : Nat) : Op Word := do
  modifyEngine (setTap fun t => { t with irLength := some length })
  testReset
  let e ← getEngine
  setIR e.cfg.ir.idcode
  rwData 0#32

/-- DETECT's scan of the processor table from index `k` on; with no match, one more read at P_IR_LENGTH_UNKNOWN
(40_tap.md R103). -/
def scanTable : List ProcDescriptor → Nat → Op (Word × Option Nat)
  | [], _ => do
      let e ← getEngine
      let id ← readId e.cfg.irLengthUnknown
      pure (id, none)
  | d :: rest, k => do
      let id ← readId (tableIrLength d.irLength)
      if id = d.idcode then pure (id, some k) else scanTable rest (k + 1)

/-- What DETECT records of the IDCODE it read (40_tap.md R103). -/
def recordId (id : Word) (index : Option Nat) : Op Unit := do
  modifyEngine fun e =>
    setSession (fun s =>
      { s with idcode := id, idcodeValid := true, procIndex := index, spiLayout := spiLayoutFor e.cfg id }) e
  modifyEngine (setStatus fun st => { st with unknownCpu := index.isNone })
  writeResult id

/-- DETECT's operation (40_tap.md R103). -/
def detectProcessor : Op Unit := do
  let e ← getEngine
  if Config.irLengthMax < e.regs.a.toNat then raiseFault .badOperand e.regs.a
  else if e.regs.a ≠ 0#32 then do
    let id ← readId e.regs.a.toNat
    recordId id (procLookup e.cfg id)
  else do
    modifyEngine (setSession fun s => { s with procIndex := none })
    let found ← scanTable e.cfg.procTable 0
    recordId found.1 found.2

/-- DETECT (40_tap.md R103). -/
def execDetect (s : State) : Host.Outcome State Fault Refusal :=
  runCommand .detect .selfSynchronising detectProcessor s

/-- FEATURES's operation (40_tap.md R105). -/
def queryFeatures : Op Unit := do
  let e ← getEngine
  setIR e.cfg.ir.impcode
  let v ← rwData 0#32
  modifyEngine fun e =>
    setSession (fun s =>
      { s with
        impcode := v
        ejtagVersion := ejtagVersionOf e.cfg.imp v
        dmaCapable := dmaCapableOf e.cfg.imp v
        useDma := useDmaOf s.accessMode (dmaCapableOf e.cfg.imp v) }) e
  writeResult v

/-- FEATURES (40_tap.md R105). -/
def execFeatures (s : State) : Host.Outcome State Fault Refusal :=
  runCommand .features .irUsing queryFeatures s

/-- CFG_ACCESS's operation (40_tap.md R106). -/
def setAccessMode : Op Unit := do
  let e ← getEngine
  match accessModeOf e.regs.a with
  | none => raiseFault .badOperand e.regs.a
  | some mode =>
      modifyEngine (setSession fun s => { s with accessMode := mode, useDma := useDmaOf mode s.dmaCapable })

/-- CFG_ACCESS (40_tap.md R106). -/
def execCfgAccess (s : State) : Host.Outcome State Fault Refusal :=
  runCommand .cfgAccess .noClocks setAccessMode s

/-- `flash_base <- WindowBase()` (43_flash_probe.md R155). -/
def rebase (e : Engine) : Engine :=
  setFlash (fun f => { f with base := windowBase e.cfg e.session.idcode f }) e

/-- `BuildBlockTable()` for the descriptor selected, at the window base (43_flash_probe.md R156). -/
def rebuildBlockTable (e : Engine) : Engine :=
  setFlash (fun f => { f with blockTable := blockTableOf e.cfg f.index f.base }) e

/-- CFG_WINDOW's operation (40_tap.md R107). -/
def setWindow : Op Unit := do
  let e ← getEngine
  if 1#32 < e.regs.b then raiseFault .badOperand e.regs.b
  else do
    modifyEngine (setFlash fun f =>
      { f with windowOverride := if e.regs.b = 0#32 then some e.regs.a else none })
    modifyEngine rebase
    if e.flash.index = none then pure () else modifyEngine rebuildBlockTable

/-- CFG_WINDOW (40_tap.md R107). -/
def execCfgWindow (s : State) : Host.Outcome State Fault Refusal :=
  runCommand .cfgWindow .noClocks setWindow s

/-- CFG_OPTIONS's operation (40_tap.md R108). -/
def writeOptions : Op Unit := do
  let e ← getEngine
  match optionsOf e.regs.a with
  | none => raiseFault .badOperand e.regs.a
  | some o => modifyEngine (setOptions o)

/-- CFG_OPTIONS (40_tap.md R108). -/
def execCfgOptions (s : State) : Host.Outcome State Fault Refusal :=
  runCommand .cfgOptions .noClocks writeOptions s

end Sys2Proof.Machine
end

