-- ==== Sys2Proof/Machine/Flash.lean ====
section
/-!
DEFINITION. The flash sequencers: parallel NOR erase, program, reset-to-read and bypass (44_flash_parallel.md), the SPI
branches (45_flash_spi.md), the probe, the forced type and the areas (43_flash_probe.md).
-/

namespace Sys2Proof.Machine

/-! ## Read mode and bypass (44_flash_parallel.md R168-R170) -/

/-- `bypass_active <- b`. -/
def setBypass (b : Bool) : Op Unit :=
  modifyEngine (setFlash fun f => { f with bypassActive := b })

/-- `BypassEnter()` (44_flash_parallel.md R169). -/
def bypassEnter : Op Unit := do
  let e ← getEngine
  if e.flash.bypassActive then pure ()
  else do
    let t ← partCommands
    amdUnlock t
    amdBypassEnter t
    setBypass true

/-- `BypassExit()` (44_flash_parallel.md R170). -/
def bypassExit : Op Unit := do
  let e ← getEngine
  if e.flash.bypassActive then do
    let t ← partCommands
    amdBypassExit1 t
    amdBypassExit2 t
    setBypass false
  else pure ()

/-- The reset-to-read of an AMD-style part, which leaves bypass mode first (44_flash_parallel.md R168). -/
def resetReadAmd : Op Unit := do
  bypassExit
  let t ← partCommands
  amdReset t

/-- `FlashResetRead()` (44_flash_parallel.md R168): nothing for SPI (45_flash_spi.md R178) and for no part. -/
def flashResetRead : Op Unit := do
  let e ← getEngine
  match e.flash.cmdType with
  | some .amd => resetReadAmd
  | some .sst => resetReadAmd
  | some .bsc => bscReadArray
  | some .scs => bscReadArray
  | some .spi => pure ()
  | none => pure ()

/-! ## Erase (44_flash_parallel.md R161-R164, 45_flash_spi.md R174) -/

/-- The ready poll of an AMD-style erase: DQ7 = 1 (44_flash_parallel.md R162). -/
def waitAmdErase (a : Word) : Op Unit := do
  let e ← getEngine
  let _ ← pollUntil a (norRead a) fun h => h.getLsbD e.cfg.nor.amdReady
  pure ()

/-- The ready poll of a BSC/SCS part: SR.7 = 1 (44_flash_parallel.md R164, R167). -/
def waitBscReady (a : Word) : Op Unit := do
  let e ← getEngine
  let _ ← pollUntil a (norRead a) fun h => h.getLsbD e.cfg.nor.bscReady
  pure ()

/-- `EraseAmd(a)` and `EraseSst(a)`: two stages, each with the unlock cycles of the part's table
(44_flash_parallel.md R162, R163). -/
def eraseAmd (t : AmdCommands) (a : Word) : Op Unit := do
  amdUnlock t
  amdEraseSetup t
  amdUnlock t
  amdSectorErase t a
  waitAmdErase a

/-- `EraseBsc(a)`: unlock the block, then erase it (44_flash_parallel.md R164). -/
def eraseBsc (a : Word) : Op Unit := do
  bscClearStatus a
  bscUnlockSetup a
  bscConfirm a
  bscReadStatus a
  waitBscReady a
  bscClearStatus a
  bscEraseSetup a
  bscConfirm a
  bscReadStatus a
  waitBscReady a

/-- `EraseSpi(a)` (45_flash_spi.md R174). -/
def eraseSpi (a : Word) : Op Unit := do
  let e ← getEngine
  withSpiLayout fun l => do
    spiTransaction l .wren none none
    spiTransaction l .se (some (spiAddress e.flash.base a)) none
    spiWaitWip l

/-- The erase of one block by the part's family (44_flash_parallel.md R161). -/
def eraseByKind (a : Word) : Op Unit := do
  let e ← getEngine
  match e.flash.cmdType with
  | some .amd => do
      bypassExit
      eraseAmd e.cfg.amd a
  | some .sst => do
      bypassExit
      eraseAmd e.cfg.sst a
  | some .bsc => eraseBsc a
  | some .scs => eraseBsc a
  | some .spi => eraseSpi a
  | none => pure ()

/-- The pseudocode of FLASH_ERASE_BLOCK, reset-to-read included (44_flash_parallel.md R161). -/
def eraseBlock (a : Word) : Op Unit := do
  eraseByKind a
  flashResetRead

/-! ## Program (44_flash_parallel.md R165-R167, 45_flash_spi.md R175) -/

/-- `ProgHalfAmd(a, h)` (44_flash_parallel.md R166). -/
def programHalfAmd (a : Word) (h : Half) : Op Unit := do
  let e ← getEngine
  let t ← partCommands
  if e.flash.bypassActive then amdBypassProgram t
  else do
    amdUnlock t
    amdProgram t
  norWrite a h
  let _ ← pollUntil a (norRead a) fun x => decide (x = h)
  pure ()

/-- `ProgHalfBsc(a, h)` (44_flash_parallel.md R167). -/
def programHalfBsc (a : Word) (h : Half) : Op Unit := do
  bscClearStatus a
  bscProgramSetup a
  norWrite a h
  waitBscReady a

/-- `ProgramSpi(a, w)` (45_flash_spi.md R175). -/
def programSpi (a w : Word) : Op Unit := do
  let e ← getEngine
  withSpiLayout fun l => do
    spiTransaction l .wren none none
    spiTransaction l .pp (some (spiAddress e.flash.base a)) (some w)
    spiWaitWip l

/-- Whether the halves are swapped (44_flash_parallel.md R165, decision D27). -/
def swapsHalves (e : Engine) : Bool :=
  e.options.st5 || (e.session.idcodeValid && isAtheros e.cfg e.session.idcode)

/-- The half written at the lower address, then the one at the upper (44_flash_parallel.md R165). -/
def halvesOf (swap : Bool) (w : Word) : Half × Half :=
  if swap then (highHalf w, lowHalf w) else (lowHalf w, highHalf w)

/-- The AMD/SST branch of a program (44_flash_parallel.md R165). -/
def programWordAmd (a : Word) (h : Half × Half) : Op Unit := do
  let e ← getEngine
  if e.options.bypass then bypassEnter else pure ()
  programHalfAmd a h.1
  programHalfAmd (a + 2#32) h.2
  let f ← getEngine
  if f.flash.bypassActive then pure () else flashResetRead

/-- The BSC/SCS branch of a program (44_flash_parallel.md R165). -/
def programWordBsc (a : Word) (h : Half × Half) : Op Unit := do
  programHalfBsc a h.1
  programHalfBsc (a + 2#32) h.2
  flashResetRead

/-- The pseudocode of FLASH_PROGRAM_WORD (44_flash_parallel.md R165). -/
def programWord (a w : Word) : Op Unit := do
  let e ← getEngine
  match e.flash.cmdType with
  | some .spi => do
      programSpi a w
      flashResetRead
  | some .amd => programWordAmd a (halvesOf (swapsHalves e) w)
  | some .sst => programWordAmd a (halvesOf (swapsHalves e) w)
  | some .bsc => programWordBsc a (halvesOf (swapsHalves e) w)
  | some .scs => programWordBsc a (halvesOf (swapsHalves e) w)
  | none => programWordBsc a (halvesOf (swapsHalves e) w)

/-! ## The flash commands (44_flash_parallel.md, 45_flash_spi.md) -/

/-- FLASH_ERASE_BLOCK (44_flash_parallel.md R161). -/
def execFlashEraseBlock (s : State) : Host.Outcome State Fault Refusal :=
  runCommand .flashEraseBlock .irUsing (do
    requireFlash
    requireSpiLayout
    requireChangeAccesses
    let e ← getEngine
    eraseBlock e.regs.a) s

/-- FLASH_PROGRAM_WORD (44_flash_parallel.md R165). -/
def execFlashProgramWord (s : State) : Host.Outcome State Fault Refusal :=
  runCommand .flashProgramWord .irUsing (do
    requireFlash
    requireSpiLayout
    requireChangeAccesses
    let e ← getEngine
    programWord e.regs.a e.regs.b) s

/-- FLASH_RESET_READ (44_flash_parallel.md R168). -/
def execFlashResetRead (s : State) : Host.Outcome State Fault Refusal :=
  runCommand .flashResetRead .irUsing (do
    requireFlash
    requireSpiLayout
    requireResetAccesses
    flashResetRead) s

/-- FLASH_BYPASS_ENTER (44_flash_parallel.md R169). -/
def execFlashBypassEnter (s : State) : Host.Outcome State Fault Refusal :=
  runCommand .flashBypassEnter .irUsing (do
    requireFlash
    requireBypassPart
    requireBypassAccesses true
    bypassEnter) s

/-- FLASH_BYPASS_EXIT (44_flash_parallel.md R170). -/
def execFlashBypassExit (s : State) : Host.Outcome State Fault Refusal :=
  runCommand .flashBypassExit .irUsing (do
    requireFlash
    requireBypassPart
    requireBypassAccesses false
    bypassExit) s

/-- SPI_CHIP_ERASE's operation (45_flash_spi.md R177). -/
def eraseSpiChip : Op Unit :=
  withSpiLayout fun l => do
    spiTransaction l .wren none none
    spiTransaction l .be none none
    spiWaitWip l

/-- SPI_CHIP_ERASE (45_flash_spi.md R177). -/
def execSpiChipErase (s : State) : Host.Outcome State Fault Refusal :=
  runCommand .spiChipErase .irUsing (do
    requireFlash
    requireSpiPart
    requireSpiLayout
    requireChangeAccesses
    eraseSpiChip) s

/-! ## Probe (43_flash_probe.md R147-R154, 45_flash_spi.md R176) -/

/-- The trials of the probe. -/
inductive Trial where
  | amd
  | sst
  | bscScs
  | spi
deriving DecidableEq, Repr

/-- "fixed trial order" (43_flash_probe.md R147). -/
def trialOrder : List Trial :=
  [.amd, .sst, .bscScs, .spi]

/-- The vendor and device reads (30_encoding.md R87). -/
def readIds : Op (Half × Half) := do
  let e ← getEngine
  let v ← norRead (e.flash.base + e.cfg.nor.vendor)
  let d ← norRead (e.flash.base + e.cfg.nor.device)
  pure (v, d)

/-- The corrected device ID, `0x0100*m + l` with the low bytes of the two sub-ID reads (43_flash_probe.md R153). -/
def readSubId : Op Half := do
  let e ← getEngine
  let m ← norRead (e.flash.base + e.cfg.nor.subHigh)
  let l ← norRead (e.flash.base + e.cfg.nor.subLow)
  pure (m.extractLsb' 0 8 ++ l.extractLsb' 0 8)

/-- `Disambiguate(v, d)`: Spansion, then Winbond (43_flash_probe.md R153, R154). -/
def disambiguate (v d : Half) : Op (Half × Half) := do
  if v = 0x0001#16 ∧ d = 0x227E#16 then do
    let d' ← readSubId
    pure (0x017E#16, d')
  else if v.extractLsb' 0 8 = 0xDA#8 ∧ d.extractLsb' 0 8 = 0x7E#8 then do
    let d' ← readSubId
    pure (v, d')
  else pure (v, d)

/-- `Trial(AMD)` and `Trial(SST)` (43_flash_probe.md R148, R149). -/
def trialAmd (t : AmdCommands) : Op (Half × Half) := do
  amdUnlock t
  amdAutoselect t
  let ids ← readIds
  let fixed ← disambiguate ids.1 ids.2
  amdReset t
  pure fixed

/-- `Trial(BSC_SCS)` (43_flash_probe.md R150). -/
def trialBsc : Op (Half × Half) := do
  bscReadId
  let ids ← readIds
  bscReadArray
  pure ids

/-- Vendor and device of an RDID value (45_flash_spi.md R176). -/
def idsOfRdid (r : Word) : Half × Half :=
  ((r.extractLsb' 0 8).setWidth 16, r.extractLsb' 8 8 ++ r.extractLsb' 16 8)

/-- `SpiReadId()` (45_flash_spi.md R176). -/
def trialSpi : Op (Half × Half) :=
  withSpiLayout fun l => do
    let r ← spiQuery l .rdid
    pure (idsOfRdid r)

/-- One trial. -/
def runTrial (t : Trial) : Op (Half × Half) := do
  let e ← getEngine
  match t with
  | .amd => trialAmd e.cfg.amd
  | .sst => trialAmd e.cfg.sst
  | .bscScs => trialBsc
  | .spi => trialSpi

/-- The trials in order, until one matches; the SPI trial is skipped without a layout. The IDs are those of the last
trial run (43_flash_probe.md R147, R151). -/
def runTrials : List Trial → Half × Half → Op ((Half × Half) × Option Nat)
  | [], ids => pure (ids, none)
  | t :: rest, ids => do
      let e ← getEngine
      if t = .spi ∧ e.session.spiLayout = none then runTrials rest ids
      else do
        let found ← runTrial t
        match flashLookup e.cfg found.1 found.2 with
        | some k => pure (found, some k)
        | none => runTrials rest found

/-- `SelectFlash(k)` (43_flash_probe.md R157). -/
def selectFlash (k : Nat) (d : FlashDescriptor) (e : Engine) : Engine :=
  setArea (fun a => { a with valid := false })
    (rebuildBlockTable
      (rebase
        (setFlash (fun f => { f with index := some k, cmdType := some d.kind, size := d.size }) e)))

/-- What the probe clears before its trials (43_flash_probe.md R147). -/
def clearFlash (e : Engine) : Engine :=
  rebase
    (setArea (fun a => { a with valid := false })
      (setFlash (fun f => { f with index := none, size := 0#32, cmdType := none, blockTable := [] }) e))

/-- The descriptor a lookup found is selected; without one the flash is unknown (43_flash_probe.md R147). -/
def recordProbe (found : Option Nat) (e : Engine) : Engine :=
  match found with
  | none => setStatus (fun st => { st with unknownFlash := true }) e
  | some k =>
      match e.cfg.flashTable[k]? with
      | some d => setStatus (fun st => { st with unknownFlash := false }) (selectFlash k d e)
      | none => e

/-- FLASH_PROBE's operation (43_flash_probe.md R147). Before it clears anything it checks the modules it is sure to run
(60_exceptions.md R189, assumption 9); a trial that is reached without its modules faults there (42_debug_executor.md
R134, 60_exceptions.md R190). -/
def probeFlash : Op Unit := do
  requireProbeAccesses
  modifyEngine clearFlash
  let x ← runTrials trialOrder (0#16, 0#16)
  modifyEngine (setFlash fun f => { f with vendorId := x.1.1, deviceId := x.1.2 })
  modifyEngine (recordProbe x.2)
  writeResult (x.1.2 ++ x.1.1)

/-- FLASH_PROBE (43_flash_probe.md R147). -/
def execFlashProbe (s : State) : Host.Outcome State Fault Refusal :=
  runCommand .flashProbe .irUsing probeFlash s

/-! ## Forced type and area selection (43_flash_probe.md R157-R159) -/

/-- FLASH_FORCE's operation (43_flash_probe.md R157). -/
def forceFlash : Op Unit := do
  let e ← getEngine
  match e.cfg.flashTable[e.regs.a.toNat]? with
  | none => raiseFault .badOperand e.regs.a
  | some d => do
      modifyEngine (selectFlash e.regs.a.toNat d)
      modifyEngine (setFlash fun f => { f with vendorId := d.vendor, deviceId := d.device })
      modifyEngine (setStatus fun st => { st with unknownFlash := false })
      writeResult (kindTag (some d.kind))

/-- FLASH_FORCE (43_flash_probe.md R157). -/
def execFlashForce (s : State) : Host.Outcome State Fault Refusal :=
  runCommand .flashForce .noClocks forceFlash s

/-- CFG_CUSTOM_AREA (43_flash_probe.md R158). -/
def execCfgCustomArea (s : State) : Host.Outcome State Fault Refusal :=
  runCommand .cfgCustomArea .noClocks (do
    let e ← getEngine
    modifyEngine (setArea fun a =>
      { a with customStart := some e.regs.a, customLength := some e.regs.b })) s

/-- The area an operand of SELECT_AREA names, as (start, length), if it may be selected (43_flash_probe.md R159). -/
def namedArea (e : Engine) (id : Word) : Option (Word × Word) :=
  if id = customAreaId then
    match e.flash.windowOverride, e.area.customStart, e.area.customLength with
    | some _, some start, some length => some (start, length)
    | _, _, _ => none
  else
    match e.cfg.areaNames[id.toNat]? with
    | none => none
    | some name =>
        match areaLookup e.cfg e.flash.size name with
        | some d => some (d.start, d.length)
        | none => some (0#32, 0#32)

/-- SELECT_AREA's operation (43_flash_probe.md R159). -/
def selectArea : Op Unit := do
  let e ← getEngine
  match namedArea e e.regs.a with
  | none => raiseFault .badArea e.regs.a
  | some x => do
      modifyEngine (setArea fun a => { a with valid := true, start := x.1, length := x.2 })
      writeResult x.2

/-- SELECT_AREA (43_flash_probe.md R159). -/
def execSelectArea (s : State) : Host.Outcome State Fault Refusal :=
  runCommand .selectArea .noClocks selectArea s

end Sys2Proof.Machine
end

