-- ==== Sys2Proof/Machine/AreaOps.lean ====
section
/-!
DEFINITION. The area operations over the host streams, and session teardown (46_area_ops.md R180-R186).
-/

namespace Sys2Proof.Machine

/-- `emit(w)` (46_area_ops.md R180). -/
def emitWord (w : Word) : Op Unit :=
  modifyEngine fun e => setStreams (fun x => { x with output := x.output ++ streamBytes e.options.swapEndian w }) e

/-- `take() -> (w, eof)` (46_area_ops.md R180). -/
def takeStreamWord : Op (Word × Bool) := do
  let e ← getEngine
  modifyEngine (setStreams fun x => { x with input := (takeWord e.options.swapEndian x.input).2 })
  pure (takeWord e.options.swapEndian e.streams.input).1

/-- F_BAD_AREA while no area is selected (46_area_ops.md R181). -/
def requireArea : Op Unit := do
  let e ← getEngine
  if e.area.valid then pure () else raiseFault .badArea e.regs.a

/-- F_STREAM while the host stream is unavailable (46_area_ops.md R180, R182). -/
def requireStream : Op Unit := do
  let e ← getEngine
  if e.streams.ok then pure () else raiseWithCommand .stream

/-- `STATUS.SKIPPED <- b`. -/
def setSkipped (b : Bool) : Op Unit :=
  modifyEngine (setStatus fun st => { st with skipped := b })

/-- The size guard (46_area_ops.md R181): skip, or clear SKIPPED and go on. The checks of the modules are a command's own
checks, which come before the guard's change (60_exceptions.md R189 item 4, assumption 9); F_STREAM comes after it
(item 5, R181, decision D48), in `body`. -/
def guardSize (checks body : Op Unit) : Op Unit := do
  let e ← getEngine
  if 0#32 < e.flash.size ∧ 0#32 < e.area.length then do
    checks
    setSkipped false
    body
  else do
    setSkipped true
    writeResult 0#32

/-- AREA_BACKUP's loop: `left` words from word `n` on (46_area_ops.md R182). -/
def backupWords : Nat → Nat → Op Unit
  | 0, _ => pure ()
  | left + 1, n => do
      let e ← getEngine
      let w ← memRead (wordAddress e.area.start n) .word
      emitWord w
      backupWords left (n + 1)

/-- AREA_BACKUP's operation after the guard (46_area_ops.md R182). -/
def backupArea : Op Unit := do
  let e ← getEngine
  backupWords (wordCount e.area.length) 0
  writeResult (BitVec.ofNat 32 (wordCount e.area.length))

/-- AREA_BACKUP (46_area_ops.md R182). -/
def execAreaBackup (s : State) : Host.Outcome State Fault Refusal :=
  runCommand .areaBackup .irUsing (do
    requireArea
    guardSize (requireAccesses [.readWord]) (do
      requireStream
      backupArea)) s

/-- AREA_ERASE's loop (46_area_ops.md R184). -/
def eraseBlocks : List Word → Op Unit
  | [] => pure ()
  | a :: rest => do
      eraseBlock a
      eraseBlocks rest

/-- AREA_ERASE's operation after the guard: the count is the number of blocks selected (46_area_ops.md R184). -/
def eraseArea : Op Unit := do
  let e ← getEngine
  eraseBlocks (selectBlocks e.flash.blockTable e.area.start e.area.length)
  writeResult (BitVec.ofNat 32 (selectBlocks e.flash.blockTable e.area.start e.area.length).length)

/-- The checks of an erase of the area: an area without blocks erases nothing (46_area_ops.md R184). -/
def requireEraseAccesses : Op Unit := do
  let e ← getEngine
  if (selectBlocks e.flash.blockTable e.area.start e.area.length).isEmpty then pure () else requireChangeAccesses

/-- AREA_ERASE (46_area_ops.md R184). -/
def execAreaErase (s : State) : Host.Outcome State Fault Refusal :=
  runCommand .areaErase .irUsing (do
    requireArea
    requireSpiLayout
    guardSize requireEraseAccesses eraseArea) s

/-- AREA_PROGRAM's loop: `left` words from word `n` on (46_area_ops.md R185). -/
def programWords : Nat → Nat → Op Unit
  | 0, _ => pure ()
  | left + 1, n => do
      let taken ← takeStreamWord
      let e ← getEngine
      programWord (wordAddress e.area.start n) taken.1
      programWords left (n + 1)

/-- The BypassExit of AREA_PROGRAM's end: its cycles are for AMD/SST only, and bypass_active is 0 after it whatever
the part (46_area_ops.md R185). -/
def leaveBypass : Op Unit := do
  let e ← getEngine
  if e.flash.cmdType = some .amd ∨ e.flash.cmdType = some .sst then bypassExit else setBypass false

/-- AREA_PROGRAM's operation after the guard (46_area_ops.md R185). -/
def programArea : Op Unit := do
  let e ← getEngine
  programWords (wordCount e.area.length) 0
  leaveBypass
  flashResetRead
  writeResult (BitVec.ofNat 32 (wordCount e.area.length))

/-- AREA_PROGRAM (46_area_ops.md R185). -/
def execAreaProgram (s : State) : Host.Outcome State Fault Refusal :=
  runCommand .areaProgram .irUsing (do
    requireArea
    requireSpiLayout
    guardSize requireChangeAccesses (do
      requireStream
      programArea)) s

/-- Whether SESSION_END may use the IR (46_area_ops.md R186). -/
def teardownReady (e : Engine) : Bool :=
  decide (e.cable.shadow = some .runTestIdle) && e.tap.irLength.isSome

/-- Whether SESSION_END returns the part to read mode (46_area_ops.md R186). -/
def teardownResetsFlash (e : Engine) : Bool :=
  teardownReady e && e.flash.cmdType.isSome
    && !(decide (e.flash.cmdType = some .spi) && decide (e.session.spiLayout = none))

/-- SESSION_END's operation: bypass_active is 0 at its end whatever the part (46_area_ops.md R186). -/
def endSession : Op Unit := do
  let e ← getEngine
  if teardownResetsFlash e then do
    requireResetAccesses
    flashResetRead
  else pure ()
  if teardownReady e && e.options.reboot then resetProcessor else pure ()
  setBypass false
  testReset

/-- SESSION_END (46_area_ops.md R186). -/
def execSessionEnd (s : State) : Host.Outcome State Fault Refusal :=
  runCommand .sessionEnd .selfSynchronising endSession s

end Sys2Proof.Machine
end

