-- ==== Sys2Proof/Machine/Cycles.lean ====
section
/-!
DEFINITION. The rows of the opcode table that are words of the block's other ports, each performed by itself
(assumption 4): the step a command's sequence performs for that word, run as an IR-using command (40_tap.md R93).
-/

namespace Sys2Proof.Machine

/-- `SetIR(P_EJTAG_IR[x])`. -/
def selectCode (code : IrCodes → Word) : Op Unit := do
  let e ← getEngine
  setIR (code e.cfg.ir)

/-- `SetIR` of BYPASS, which is `(1 << L) - 1` for an IR of L bits (30_encoding.md R77). -/
def bypassCode (length : Nat) : Word :=
  BitVec.ofNat 32 (2 ^ length - 1)

/-- `SetIR(BYPASS)`; the class check has found the IR length set (40_tap.md R93). -/
def selectBypass : Op Unit := do
  let e ← getEngine
  match e.tap.irLength with
  | some length => setIR (bypassCode length)
  | none => raiseWithCommand .noIrLen

/-- `CTRL v`: select CONTROL and exchange the value; the word captured goes to RESULT, as for TAP_RWDATA
(40_tap.md R99). -/
def exchangeControl (value : ControlBits → Word) : Op Unit := do
  selectControl
  let e ← getEngine
  let v ← rwData (value e.cfg.ctl)
  writeResult v

/-- An operation that depends on the registers or the parameters. -/
def withAddress (f : Engine → Op Unit) : Op Unit := do
  let e ← getEngine
  f e

/-- One transaction on the layout of the state (45_flash_spi.md R172). -/
def transact (op : SpiOp) (addr data : Option Word) : Op Unit :=
  withSpiLayout fun l => do
    requireAccesses [.writeWord, .readWord]
    spiTransaction l op addr data

/-- One transaction that reads the data register, to RESULT (45_flash_spi.md R172). -/
def query (op : SpiOp) : Op Unit :=
  withSpiLayout fun l => do
    requireAccesses [.writeWord, .readWord]
    let v ← spiQuery l op
    writeResult v

/-- The write of a Broadcom control word (45_flash_spi.md R171, R172). -/
def startBroadcom (op : SpiOp) : Op Unit := do
  let e ← getEngine
  spiStart e.cfg.broadcom op

/-! ## Instruction codes (30_encoding.md R77, R78): each is a TAP_SETIR of that code -/

/-- IR_IDCODE (30_encoding.md R77). -/
def execIrIdcode (s : State) : Host.Outcome State Fault Refusal :=
  runCommand .irIdcode .irUsing (selectCode (·.idcode)) s

/-- IR_IMPCODE (30_encoding.md R77). -/
def execIrImpcode (s : State) : Host.Outcome State Fault Refusal :=
  runCommand .irImpcode .irUsing (selectCode (·.impcode)) s

/-- IR_ADDRESS (30_encoding.md R77). -/
def execIrAddress (s : State) : Host.Outcome State Fault Refusal :=
  runCommand .irAddress .irUsing (selectCode (·.address)) s

/-- IR_DATA (30_encoding.md R77). -/
def execIrData (s : State) : Host.Outcome State Fault Refusal :=
  runCommand .irData .irUsing (selectCode (·.data)) s

/-- IR_CONTROL (30_encoding.md R77). -/
def execIrControl (s : State) : Host.Outcome State Fault Refusal :=
  runCommand .irControl .irUsing (selectCode (·.control)) s

/-- IR_ALL (30_encoding.md R78). -/
def execIrAll (s : State) : Host.Outcome State Fault Refusal :=
  runCommand .irAll .irUsing (selectCode (·.all)) s

/-- IR_EJTAGBOOT (30_encoding.md R78). -/
def execIrEjtagboot (s : State) : Host.Outcome State Fault Refusal :=
  runCommand .irEjtagboot .irUsing (selectCode (·.ejtagboot)) s

/-- IR_NORMALBOOT (30_encoding.md R78). -/
def execIrNormalboot (s : State) : Host.Outcome State Fault Refusal :=
  runCommand .irNormalboot .irUsing (selectCode (·.normalboot)) s

/-- IR_FASTDATA (30_encoding.md R78). -/
def execIrFastdata (s : State) : Host.Outcome State Fault Refusal :=
  runCommand .irFastdata .irUsing (selectCode (·.fastdata)) s

/-- IR_BYPASS (30_encoding.md R77). -/
def execIrBypass (s : State) : Host.Outcome State Fault Refusal :=
  runCommand .irBypass .irUsing selectBypass s

/-! ## CONTROL values (30_encoding.md R80) -/

/-- CTL_DMA_RD_W (30_encoding.md R80). -/
def execCtlDmaRdW (s : State) : Host.Outcome State Fault Refusal :=
  runCommand .ctlDmaRdW .irUsing (exchangeControl (ctlDmaRead · .word)) s

/-- CTL_DMA_RD_H (30_encoding.md R80). -/
def execCtlDmaRdH (s : State) : Host.Outcome State Fault Refusal :=
  runCommand .ctlDmaRdH .irUsing (exchangeControl (ctlDmaRead · .half)) s

/-- CTL_DMA_WR_W (30_encoding.md R80). -/
def execCtlDmaWrW (s : State) : Host.Outcome State Fault Refusal :=
  runCommand .ctlDmaWrW .irUsing (exchangeControl (ctlDmaWrite · .word)) s

/-- CTL_DMA_WR_H (30_encoding.md R80). -/
def execCtlDmaWrH (s : State) : Host.Outcome State Fault Refusal :=
  runCommand .ctlDmaWrH .irUsing (exchangeControl (ctlDmaWrite · .half)) s

/-- CTL_DMA_POLL (30_encoding.md R80). -/
def execCtlDmaPoll (s : State) : Host.Outcome State Fault Refusal :=
  runCommand .ctlDmaPoll .irUsing (exchangeControl ctlDmaPoll) s

/-- CTL_DMA_END (30_encoding.md R80). -/
def execCtlDmaEnd (s : State) : Host.Outcome State Fault Refusal :=
  runCommand .ctlDmaEnd .irUsing (exchangeControl ctlDmaEnd) s

/-- CTL_PRACC_POLL (30_encoding.md R80). -/
def execCtlPraccPoll (s : State) : Host.Outcome State Fault Refusal :=
  runCommand .ctlPraccPoll .irUsing (exchangeControl ctlPraccPoll) s

/-- CTL_PRACC_DONE (30_encoding.md R80). -/
def execCtlPraccDone (s : State) : Host.Outcome State Fault Refusal :=
  runCommand .ctlPraccDone .irUsing (exchangeControl ctlPraccDone) s

/-- CTL_HALT (30_encoding.md R80). -/
def execCtlHalt (s : State) : Host.Outcome State Fault Refusal :=
  runCommand .ctlHalt .irUsing (exchangeControl ctlHalt) s

/-- CTL_RESET (30_encoding.md R80). -/
def execCtlReset (s : State) : Host.Outcome State Fault Refusal :=
  runCommand .ctlReset .irUsing (exchangeControl ctlReset) s

/-- CTL_ZERO (30_encoding.md R80). -/
def execCtlZero (s : State) : Host.Outcome State Fault Refusal :=
  runCommand .ctlZero .irUsing (exchangeControl (fun _ => Sys2Proof.Machine.ctlZero)) s

/-! ## NOR command cycles (30_encoding.md R84-R86) -/

/-- AMD_UNLOCK1 (30_encoding.md R84). -/
def execAmdUnlock1 (s : State) : Host.Outcome State Fault Refusal :=
  runCommand .amdUnlock1 .irUsing (withAddress fun e => amdUnlock1 e.cfg.amd) s

/-- AMD_UNLOCK2 (30_encoding.md R84). -/
def execAmdUnlock2 (s : State) : Host.Outcome State Fault Refusal :=
  runCommand .amdUnlock2 .irUsing (withAddress fun e => amdUnlock2 e.cfg.amd) s

/-- AMD_AUTOSELECT (30_encoding.md R84). -/
def execAmdAutoselect (s : State) : Host.Outcome State Fault Refusal :=
  runCommand .amdAutoselect .irUsing (withAddress fun e => amdAutoselect e.cfg.amd) s

/-- AMD_ERASE_SETUP (30_encoding.md R84). -/
def execAmdEraseSetup (s : State) : Host.Outcome State Fault Refusal :=
  runCommand .amdEraseSetup .irUsing (withAddress fun e => amdEraseSetup e.cfg.amd) s

/-- AMD_SECTOR_ERASE (30_encoding.md R84). -/
def execAmdSectorErase (s : State) : Host.Outcome State Fault Refusal :=
  runCommand .amdSectorErase .irUsing (withAddress fun e => amdSectorErase e.cfg.amd e.regs.a) s

/-- AMD_PROGRAM (30_encoding.md R84). -/
def execAmdProgram (s : State) : Host.Outcome State Fault Refusal :=
  runCommand .amdProgram .irUsing (withAddress fun e => amdProgram e.cfg.amd) s

/-- AMD_BYPASS_ENTER (30_encoding.md R84). -/
def execAmdBypassEnter (s : State) : Host.Outcome State Fault Refusal :=
  runCommand .amdBypassEnter .irUsing (withAddress fun e => amdBypassEnter e.cfg.amd) s

/-- AMD_BYPASS_PROGRAM (30_encoding.md R84). -/
def execAmdBypassProgram (s : State) : Host.Outcome State Fault Refusal :=
  runCommand .amdBypassProgram .irUsing (withAddress fun e => amdBypassProgram e.cfg.amd) s

/-- AMD_BYPASS_EXIT1 (30_encoding.md R84). -/
def execAmdBypassExit1 (s : State) : Host.Outcome State Fault Refusal :=
  runCommand .amdBypassExit1 .irUsing (withAddress fun e => amdBypassExit1 e.cfg.amd) s

/-- AMD_BYPASS_EXIT2 (30_encoding.md R84). -/
def execAmdBypassExit2 (s : State) : Host.Outcome State Fault Refusal :=
  runCommand .amdBypassExit2 .irUsing (withAddress fun e => amdBypassExit2 e.cfg.amd) s

/-- AMD_RESET (30_encoding.md R84). -/
def execAmdReset (s : State) : Host.Outcome State Fault Refusal :=
  runCommand .amdReset .irUsing (withAddress fun e => amdReset e.cfg.amd) s

/-- SST_UNLOCK1 (30_encoding.md R85). -/
def execSstUnlock1 (s : State) : Host.Outcome State Fault Refusal :=
  runCommand .sstUnlock1 .irUsing (withAddress fun e => amdUnlock1 e.cfg.sst) s

/-- SST_UNLOCK2 (30_encoding.md R85). -/
def execSstUnlock2 (s : State) : Host.Outcome State Fault Refusal :=
  runCommand .sstUnlock2 .irUsing (withAddress fun e => amdUnlock2 e.cfg.sst) s

/-- SST_AUTOSELECT (30_encoding.md R85). -/
def execSstAutoselect (s : State) : Host.Outcome State Fault Refusal :=
  runCommand .sstAutoselect .irUsing (withAddress fun e => amdAutoselect e.cfg.sst) s

/-- SST_ERASE_SETUP (30_encoding.md R85). -/
def execSstEraseSetup (s : State) : Host.Outcome State Fault Refusal :=
  runCommand .sstEraseSetup .irUsing (withAddress fun e => amdEraseSetup e.cfg.sst) s

/-- SST_SECTOR_ERASE (30_encoding.md R85). -/
def execSstSectorErase (s : State) : Host.Outcome State Fault Refusal :=
  runCommand .sstSectorErase .irUsing (withAddress fun e => amdSectorErase e.cfg.sst e.regs.a) s

/-- SST_PROGRAM (30_encoding.md R85). -/
def execSstProgram (s : State) : Host.Outcome State Fault Refusal :=
  runCommand .sstProgram .irUsing (withAddress fun e => amdProgram e.cfg.sst) s

/-- SST_RESET (30_encoding.md R85). -/
def execSstReset (s : State) : Host.Outcome State Fault Refusal :=
  runCommand .sstReset .irUsing (withAddress fun e => amdReset e.cfg.sst) s

/-- BSC_CLEAR_STATUS (30_encoding.md R86). -/
def execBscClearStatus (s : State) : Host.Outcome State Fault Refusal :=
  runCommand .bscClearStatus .irUsing (withAddress fun e => bscClearStatus e.regs.a) s

/-- BSC_UNLOCK_SETUP (30_encoding.md R86). -/
def execBscUnlockSetup (s : State) : Host.Outcome State Fault Refusal :=
  runCommand .bscUnlockSetup .irUsing (withAddress fun e => bscUnlockSetup e.regs.a) s

/-- BSC_CONFIRM (30_encoding.md R86). -/
def execBscConfirm (s : State) : Host.Outcome State Fault Refusal :=
  runCommand .bscConfirm .irUsing (withAddress fun e => bscConfirm e.regs.a) s

/-- BSC_ERASE_SETUP (30_encoding.md R86). -/
def execBscEraseSetup (s : State) : Host.Outcome State Fault Refusal :=
  runCommand .bscEraseSetup .irUsing (withAddress fun e => bscEraseSetup e.regs.a) s

/-- BSC_READ_STATUS (30_encoding.md R86). -/
def execBscReadStatus (s : State) : Host.Outcome State Fault Refusal :=
  runCommand .bscReadStatus .irUsing (withAddress fun e => bscReadStatus e.regs.a) s

/-- BSC_PROGRAM_SETUP (30_encoding.md R86). -/
def execBscProgramSetup (s : State) : Host.Outcome State Fault Refusal :=
  runCommand .bscProgramSetup .irUsing (withAddress fun e => bscProgramSetup e.regs.a) s

/-- BSC_READ_ID (30_encoding.md R86). -/
def execBscReadId (s : State) : Host.Outcome State Fault Refusal :=
  runCommand .bscReadId .irUsing bscReadId s

/-- BSC_READ_ARRAY (30_encoding.md R86). -/
def execBscReadArray (s : State) : Host.Outcome State Fault Refusal :=
  runCommand .bscReadArray .irUsing bscReadArray s

/-! ## SPI transactions (30_encoding.md R89, 45_flash_spi.md R172) and Broadcom control words (R171) -/

/-- SPI_WREN (30_encoding.md R89). -/
def execSpiWren (s : State) : Host.Outcome State Fault Refusal :=
  runCommand .spiWren .irUsing (transact .wren none none) s

/-- SPI_WREN_BROADCOM_CTRL (45_flash_spi.md R171). -/
def execSpiWrenBroadcomCtrl (s : State) : Host.Outcome State Fault Refusal :=
  runCommand .spiWrenBroadcomCtrl .irUsing (startBroadcom .wren) s

/-- SPI_RDSR (30_encoding.md R89). -/
def execSpiRdsr (s : State) : Host.Outcome State Fault Refusal :=
  runCommand .spiRdsr .irUsing (query .rdsr) s

/-- SPI_RDSR_BROADCOM_CTRL (45_flash_spi.md R171). -/
def execSpiRdsrBroadcomCtrl (s : State) : Host.Outcome State Fault Refusal :=
  runCommand .spiRdsrBroadcomCtrl .irUsing (startBroadcom .rdsr) s

/-- SPI_SE (30_encoding.md R89). -/
def execSpiSe (s : State) : Host.Outcome State Fault Refusal :=
  runCommand .spiSe .irUsing (withAddress fun e => transact .se (some (spiAddress e.flash.base e.regs.a)) none) s

/-- SPI_SE_BROADCOM_CTRL (45_flash_spi.md R171). -/
def execSpiSeBroadcomCtrl (s : State) : Host.Outcome State Fault Refusal :=
  runCommand .spiSeBroadcomCtrl .irUsing (startBroadcom .se) s

/-- SPI_PP (30_encoding.md R89). -/
def execSpiPp (s : State) : Host.Outcome State Fault Refusal :=
  runCommand .spiPp .irUsing (withAddress fun e => transact .pp (some (spiAddress e.flash.base e.regs.a)) (some e.regs.b)) s

/-- SPI_PP_BROADCOM_CTRL (45_flash_spi.md R171). -/
def execSpiPpBroadcomCtrl (s : State) : Host.Outcome State Fault Refusal :=
  runCommand .spiPpBroadcomCtrl .irUsing (startBroadcom .pp) s

/-- SPI_RDID (30_encoding.md R89). -/
def execSpiRdid (s : State) : Host.Outcome State Fault Refusal :=
  runCommand .spiRdid .irUsing (query .rdid) s

/-- SPI_RDID_BROADCOM_CTRL (45_flash_spi.md R171). -/
def execSpiRdidBroadcomCtrl (s : State) : Host.Outcome State Fault Refusal :=
  runCommand .spiRdidBroadcomCtrl .irUsing (startBroadcom .rdid) s

/-- SPI_BE (30_encoding.md R89). -/
def execSpiBe (s : State) : Host.Outcome State Fault Refusal :=
  runCommand .spiBe .irUsing (transact .be none none) s

/-- SPI_BE_BROADCOM_CTRL (45_flash_spi.md R171). -/
def execSpiBeBroadcomCtrl (s : State) : Host.Outcome State Fault Refusal :=
  runCommand .spiBeBroadcomCtrl .irUsing (startBroadcom .be) s

end Sys2Proof.Machine
end

