-- ==== Sys2Proof/Machine/Memory.lean ====
section
/-!
DEFINITION. The memory access, virtual register and executor commands (41_memory_access.md R110-R127,
42_debug_executor.md R134).
-/

namespace Sys2Proof.Machine

/-- A command that reads address A through a primitive and returns the value (41_memory_access.md R110, R117, R122). -/
def readCommand (primitive : Word → Width → Op Word) (width : Width) : Op Unit := do
  let e ← getEngine
  let v ← primitive e.regs.a width
  writeResult v

/-- A command that writes B at address A through a primitive; a halfword write uses B[15:0]
(41_memory_access.md R112, R119, R124). -/
def writeCommand (primitive : Word → Width → Word → Op Unit) (width : Width) : Op Unit := do
  let e ← getEngine
  primitive e.regs.a width e.regs.b

/-- MEM_READ32 (41_memory_access.md R110). -/
def execMemRead32 (s : State) : Host.Outcome State Fault Refusal :=
  runCommand .memRead32 .irUsing (readCommand memRead .word) s

/-- MEM_READ16 (41_memory_access.md R111). -/
def execMemRead16 (s : State) : Host.Outcome State Fault Refusal :=
  runCommand .memRead16 .irUsing (readCommand memRead .half) s

/-- MEM_WRITE32 (41_memory_access.md R112). -/
def execMemWrite32 (s : State) : Host.Outcome State Fault Refusal :=
  runCommand .memWrite32 .irUsing (writeCommand memWrite .word) s

/-- MEM_WRITE16 (41_memory_access.md R113). -/
def execMemWrite16 (s : State) : Host.Outcome State Fault Refusal :=
  runCommand .memWrite16 .irUsing (writeCommand memWrite .half) s

/-- DMA_READ32 (41_memory_access.md R117). -/
def execDmaRead32 (s : State) : Host.Outcome State Fault Refusal :=
  runCommand .dmaRead32 .irUsing (readCommand dmaRead .word) s

/-- DMA_READ16 (41_memory_access.md R118). -/
def execDmaRead16 (s : State) : Host.Outcome State Fault Refusal :=
  runCommand .dmaRead16 .irUsing (readCommand dmaRead .half) s

/-- DMA_WRITE32 (41_memory_access.md R119). -/
def execDmaWrite32 (s : State) : Host.Outcome State Fault Refusal :=
  runCommand .dmaWrite32 .irUsing (writeCommand dmaWrite .word) s

/-- DMA_WRITE16 (41_memory_access.md R120). -/
def execDmaWrite16 (s : State) : Host.Outcome State Fault Refusal :=
  runCommand .dmaWrite16 .irUsing (writeCommand dmaWrite .half) s

/-- PRACC_READ32 (41_memory_access.md R122). -/
def execPraccRead32 (s : State) : Host.Outcome State Fault Refusal :=
  runCommand .praccRead32 .irUsing (readCommand praccRead .word) s

/-- PRACC_READ16 (41_memory_access.md R123). -/
def execPraccRead16 (s : State) : Host.Outcome State Fault Refusal :=
  runCommand .praccRead16 .irUsing (readCommand praccRead .half) s

/-- PRACC_WRITE32 (41_memory_access.md R124). -/
def execPraccWrite32 (s : State) : Host.Outcome State Fault Refusal :=
  runCommand .praccWrite32 .irUsing (writeCommand praccWrite .word) s

/-- PRACC_WRITE16 (41_memory_access.md R125). -/
def execPraccWrite16 (s : State) : Host.Outcome State Fault Refusal :=
  runCommand .praccWrite16 .irUsing (writeCommand praccWrite .half) s

/-- EXEC_MODULE's operation: module 4 ends on its last word (42_debug_executor.md R134). -/
def execSelectedModule : Op Unit := do
  let e ← getEngine
  match moduleIdOf e.regs.a with
  | none => raiseFault .badOperand e.regs.a
  | some m => runModule m (if m = .returnFromDebug then .lastWord else .vectorReentry)

/-- EXEC_MODULE (42_debug_executor.md R134). -/
def execExecModule (s : State) : Host.Outcome State Fault Refusal :=
  runCommand .execModule .irUsing execSelectedModule s

/-- VREG_WRITE's operation (41_memory_access.md R126). -/
def writeVreg : Op Unit := do
  let e ← getEngine
  if 1#32 < e.regs.a then raiseFault .badOperand e.regs.a
  else if e.regs.a = 0#32 then modifyEngine (setVregs fun v => { v with address := e.regs.b })
  else modifyEngine (setVregs fun v => { v with data := e.regs.b })

/-- VREG_WRITE (41_memory_access.md R126). -/
def execVregWrite (s : State) : Host.Outcome State Fault Refusal :=
  runCommand .vregWrite .noClocks writeVreg s

/-- VREG_READ's operation (41_memory_access.md R127). -/
def readVreg : Op Unit := do
  let e ← getEngine
  if 1#32 < e.regs.a then raiseFault .badOperand e.regs.a
  else writeResult (if e.regs.a = 0#32 then e.vregs.address else e.vregs.data)

/-- VREG_READ (41_memory_access.md R127). -/
def execVregRead (s : State) : Host.Outcome State Fault Refusal :=
  runCommand .vregRead .noClocks readVreg s

end Sys2Proof.Machine
end

