-- ==== Sys2Proof/Machine/TargetControl.lean ====
section
/-!
DEFINITION. The target debug control commands: reset, halt, resume and the DEPC modules
(41_memory_access.md R129-R133).
-/

namespace Sys2Proof.Machine

/-- `STATUS.IN_DEBUG <- b`. -/
def setInDebug (b : Bool) : Op Unit :=
  modifyEngine (setStatus fun st => { st with inDebug := b })

/-- PROC_RESET (41_memory_access.md R129). -/
def execProcReset (s : State) : Host.Outcome State Fault Refusal :=
  runCommand .procReset .irUsing (do
    resetProcessor
    setInDebug false) s

/-- PROC_HALT's operation (41_memory_access.md R130). -/
def haltProcessor : Op Unit := do
  selectControl
  let e ← getEngine
  let _ ← rwData (ctlHalt e.cfg.ctl)
  let c ← rwData (ctlPraccPoll e.cfg.ctl)
  setInDebug (c.getLsbD e.cfg.ctl.dm)
  writeResult c

/-- PROC_HALT (41_memory_access.md R130). -/
def execProcHalt (s : State) : Host.Outcome State Fault Refusal :=
  runCommand .procHalt .irUsing haltProcessor s

/-- PROC_RESUME (41_memory_access.md R131). -/
def execProcResume (s : State) : Host.Outcome State Fault Refusal :=
  runCommand .procResume .irUsing (do
    runModule .returnFromDebug .lastWord
    setInDebug false) s

/-- DEPC_READ (41_memory_access.md R132). -/
def execDepcRead (s : State) : Host.Outcome State Fault Refusal :=
  runCommand .depcRead .irUsing (do
    runModule .readDepc .vectorReentry
    let e ← getEngine
    writeResult e.vregs.data) s

/-- DEPC_WRITE (41_memory_access.md R133); a missing module is found before data_register is written
(60_exceptions.md R189). -/
def execDepcWrite (s : State) : Host.Outcome State Fault Refusal :=
  runCommand .depcWrite .irUsing (do
    requireModules [.writeDepc]
    let e ← getEngine
    presentData e.regs.a
    runModule .writeDepc .vectorReentry) s

end Sys2Proof.Machine
end

