-- ==== Sys2Proof/Machine/Dispatch.lean ====
section
/-! DEFINITION. One arm per instruction: a direct call of its meaning. -/

namespace Sys2Proof.Machine

/-- What an instruction does. -/
def exec (i : Instr) (s : State) : Host.Outcome State Fault Refusal :=
  match i with
  | .tapReset => Sys2Proof.Machine.execTapReset s
  | .tapSetir => Sys2Proof.Machine.execTapSetir s
  | .tapRwdata => Sys2Proof.Machine.execTapRwdata s
  | .tapRdata => Sys2Proof.Machine.execTapRdata s
  | .tapWdata => Sys2Proof.Machine.execTapWdata s
  | .cfgIrlen => Sys2Proof.Machine.execCfgIrlen s
  | .detect => Sys2Proof.Machine.execDetect s
  | .features => Sys2Proof.Machine.execFeatures s
  | .cfgAccess => Sys2Proof.Machine.execCfgAccess s
  | .cfgWindow => Sys2Proof.Machine.execCfgWindow s
  | .cfgOptions => Sys2Proof.Machine.execCfgOptions s
  | .flashForce => Sys2Proof.Machine.execFlashForce s
  | .cfgCustomArea => Sys2Proof.Machine.execCfgCustomArea s
  | .selectArea => Sys2Proof.Machine.execSelectArea s
  | .procReset => Sys2Proof.Machine.execProcReset s
  | .procHalt => Sys2Proof.Machine.execProcHalt s
  | .procResume => Sys2Proof.Machine.execProcResume s
  | .depcRead => Sys2Proof.Machine.execDepcRead s
  | .depcWrite => Sys2Proof.Machine.execDepcWrite s
  | .memRead32 => Sys2Proof.Machine.execMemRead32 s
  | .memRead16 => Sys2Proof.Machine.execMemRead16 s
  | .memWrite32 => Sys2Proof.Machine.execMemWrite32 s
  | .memWrite16 => Sys2Proof.Machine.execMemWrite16 s
  | .dmaRead32 => Sys2Proof.Machine.execDmaRead32 s
  | .dmaRead16 => Sys2Proof.Machine.execDmaRead16 s
  | .dmaWrite32 => Sys2Proof.Machine.execDmaWrite32 s
  | .dmaWrite16 => Sys2Proof.Machine.execDmaWrite16 s
  | .praccRead32 => Sys2Proof.Machine.execPraccRead32 s
  | .praccRead16 => Sys2Proof.Machine.execPraccRead16 s
  | .praccWrite32 => Sys2Proof.Machine.execPraccWrite32 s
  | .praccWrite16 => Sys2Proof.Machine.execPraccWrite16 s
  | .execModule => Sys2Proof.Machine.execExecModule s
  | .vregWrite => Sys2Proof.Machine.execVregWrite s
  | .vregRead => Sys2Proof.Machine.execVregRead s
  | .flashProbe => Sys2Proof.Machine.execFlashProbe s
  | .flashEraseBlock => Sys2Proof.Machine.execFlashEraseBlock s
  | .flashProgramWord => Sys2Proof.Machine.execFlashProgramWord s
  | .flashResetRead => Sys2Proof.Machine.execFlashResetRead s
  | .flashBypassEnter => Sys2Proof.Machine.execFlashBypassEnter s
  | .flashBypassExit => Sys2Proof.Machine.execFlashBypassExit s
  | .spiChipErase => Sys2Proof.Machine.execSpiChipErase s
  | .areaBackup => Sys2Proof.Machine.execAreaBackup s
  | .areaErase => Sys2Proof.Machine.execAreaErase s
  | .areaProgram => Sys2Proof.Machine.execAreaProgram s
  | .sessionEnd => Sys2Proof.Machine.execSessionEnd s
  | .irIdcode => Sys2Proof.Machine.execIrIdcode s
  | .irImpcode => Sys2Proof.Machine.execIrImpcode s
  | .irAddress => Sys2Proof.Machine.execIrAddress s
  | .irData => Sys2Proof.Machine.execIrData s
  | .irControl => Sys2Proof.Machine.execIrControl s
  | .irAll => Sys2Proof.Machine.execIrAll s
  | .irEjtagboot => Sys2Proof.Machine.execIrEjtagboot s
  | .irNormalboot => Sys2Proof.Machine.execIrNormalboot s
  | .irFastdata => Sys2Proof.Machine.execIrFastdata s
  | .irBypass => Sys2Proof.Machine.execIrBypass s
  | .ctlDmaRdW => Sys2Proof.Machine.execCtlDmaRdW s
  | .ctlDmaRdH => Sys2Proof.Machine.execCtlDmaRdH s
  | .ctlDmaWrW => Sys2Proof.Machine.execCtlDmaWrW s
  | .ctlDmaWrH => Sys2Proof.Machine.execCtlDmaWrH s
  | .ctlDmaPoll => Sys2Proof.Machine.execCtlDmaPoll s
  | .ctlDmaEnd => Sys2Proof.Machine.execCtlDmaEnd s
  | .ctlPraccPoll => Sys2Proof.Machine.execCtlPraccPoll s
  | .ctlPraccDone => Sys2Proof.Machine.execCtlPraccDone s
  | .ctlHalt => Sys2Proof.Machine.execCtlHalt s
  | .ctlReset => Sys2Proof.Machine.execCtlReset s
  | .ctlZero => Sys2Proof.Machine.execCtlZero s
  | .amdUnlock1 => Sys2Proof.Machine.execAmdUnlock1 s
  | .amdUnlock2 => Sys2Proof.Machine.execAmdUnlock2 s
  | .amdAutoselect => Sys2Proof.Machine.execAmdAutoselect s
  | .amdEraseSetup => Sys2Proof.Machine.execAmdEraseSetup s
  | .amdSectorErase => Sys2Proof.Machine.execAmdSectorErase s
  | .amdProgram => Sys2Proof.Machine.execAmdProgram s
  | .amdBypassEnter => Sys2Proof.Machine.execAmdBypassEnter s
  | .amdBypassProgram => Sys2Proof.Machine.execAmdBypassProgram s
  | .amdBypassExit1 => Sys2Proof.Machine.execAmdBypassExit1 s
  | .amdBypassExit2 => Sys2Proof.Machine.execAmdBypassExit2 s
  | .amdReset => Sys2Proof.Machine.execAmdReset s
  | .sstUnlock1 => Sys2Proof.Machine.execSstUnlock1 s
  | .sstUnlock2 => Sys2Proof.Machine.execSstUnlock2 s
  | .sstAutoselect => Sys2Proof.Machine.execSstAutoselect s
  | .sstEraseSetup => Sys2Proof.Machine.execSstEraseSetup s
  | .sstSectorErase => Sys2Proof.Machine.execSstSectorErase s
  | .sstProgram => Sys2Proof.Machine.execSstProgram s
  | .sstReset => Sys2Proof.Machine.execSstReset s
  | .bscClearStatus => Sys2Proof.Machine.execBscClearStatus s
  | .bscUnlockSetup => Sys2Proof.Machine.execBscUnlockSetup s
  | .bscConfirm => Sys2Proof.Machine.execBscConfirm s
  | .bscEraseSetup => Sys2Proof.Machine.execBscEraseSetup s
  | .bscReadStatus => Sys2Proof.Machine.execBscReadStatus s
  | .bscProgramSetup => Sys2Proof.Machine.execBscProgramSetup s
  | .bscReadId => Sys2Proof.Machine.execBscReadId s
  | .bscReadArray => Sys2Proof.Machine.execBscReadArray s
  | .spiWren => Sys2Proof.Machine.execSpiWren s
  | .spiWrenBroadcomCtrl => Sys2Proof.Machine.execSpiWrenBroadcomCtrl s
  | .spiRdsr => Sys2Proof.Machine.execSpiRdsr s
  | .spiRdsrBroadcomCtrl => Sys2Proof.Machine.execSpiRdsrBroadcomCtrl s
  | .spiSe => Sys2Proof.Machine.execSpiSe s
  | .spiSeBroadcomCtrl => Sys2Proof.Machine.execSpiSeBroadcomCtrl s
  | .spiPp => Sys2Proof.Machine.execSpiPp s
  | .spiPpBroadcomCtrl => Sys2Proof.Machine.execSpiPpBroadcomCtrl s
  | .spiRdid => Sys2Proof.Machine.execSpiRdid s
  | .spiRdidBroadcomCtrl => Sys2Proof.Machine.execSpiRdidBroadcomCtrl s
  | .spiBe => Sys2Proof.Machine.execSpiBe s
  | .spiBeBroadcomCtrl => Sys2Proof.Machine.execSpiBeBroadcomCtrl s

end Sys2Proof.Machine
end

