-- ==== Sys2Proof/Machine/HostPort.lean ====
section
/-!
DEFINITION. The host command interface (10_state.md R24, R27; 30_encoding.md R66, R69, R71; 70_reset_and_hazards.md
R202, R209): starting a command, what one host action does to an idle and to a busy block, and the host action that
puts a table word where the next step takes it.
-/

namespace Sys2Proof.Machine

/-- CMD holds a word the host wrote (10_state.md R24). -/
def withCommandWord (w : Word) (s : State) : State :=
  { s with toEngine := setRegs (fun r => { r with cmd := w }) s.toEngine }

/-- A command word that is no command: refused while FAULTED = 1, else F_ILLEGAL_CMD with the word as info
(30_encoding.md R69, 60_exceptions.md R189-R191). -/
def rejectCommand (w : Word) (s : State) : State :=
  if s.status.faulted then s else { s with toEngine := faultedEngine .illegalCmd w s.toEngine }

/-- A host write to CMD on an idle block: the command starts (10_state.md R24, 30_encoding.md R66). -/
def startCommand (w : Word) (s : State) : Host.Outcome State Fault Refusal :=
  match decode .command w with
  | .ok i => exec i (withCommandWord w s)
  | .error _ => .next (rejectCommand w (withCommandWord w s))

/-- One word of another port by itself (assumption 4): CMD is not written, and a word that is no row of the port does
nothing. At the command port this is a CMD write. The word names its row by the defaults of the parameters, and the row
drives the value State.cfg holds (assumption 21). -/
def presentWord (p : Port) (w : Word) (s : State) : Host.Outcome State Fault Refusal :=
  match p with
  | .command => startCommand w s
  | _ =>
      match decode p w with
      | .ok i => exec i s
      | .error _ => .next s

/-- One host action on an idle block; `s` no longer lists it. -/
def hostTurn (act : HostAction) (s : State) : Host.Outcome State Fault Refusal :=
  match act with
  | .writeA v => .next { s with toEngine := setRegs (fun r => { r with a := v }) s.toEngine }
  | .writeB v => .next { s with toEngine := setRegs (fun r => { r with b := v }) s.toEngine }
  | .writeCmd w => startCommand w s
  | .awaitIdle => .next s
  | .openStreams ok bytes =>
      .next { s with toEngine := setStreams (fun _ => { ok := ok, input := bytes, output := [] }) s.toEngine }
  | .blockReset => .next (blockReset s)
  | .present p w => presentWord p w s

/-- One step of a busy block: block reset is obeyed (60_exceptions.md R194), a register write is ignored
(70_reset_and_hazards.md R209), and anything else waits while the command goes on. -/
def busyTurn (r : Running) (s : State) : Host.Outcome State Fault Refusal :=
  match s.host with
  | .blockReset :: rest => .next (blockReset { s with host := rest })
  | .writeA _ :: rest => .next { s with host := rest }
  | .writeB _ :: rest => .next { s with host := rest }
  | .writeCmd _ :: rest => .next { s with host := rest }
  | .awaitIdle :: _ => exec r.instr s
  | .openStreams _ _ :: _ => exec r.instr s
  | .present _ _ :: _ => exec r.instr s
  | [] => exec r.instr s

/-- One step of an idle block: the host's next action, or nothing. -/
def idleTurn (s : State) : Host.Outcome State Fault Refusal :=
  match s.host with
  | [] => .next s
  | act :: rest => hostTurn act { s with host := rest }

/-- The host action that gives the block a bare table word: a CMD write for a word of 32 bits that is a command or no
row at all, else the word at the first port that knows it (assumption 5). -/
def tableAction (nbits w : Nat) : HostAction :=
  match decodeTableEntry nbits w with
  | some (p, _) => if p = .command then .writeCmd (BitVec.ofNat 32 w) else .present p (BitVec.ofNat 32 w)
  | none => .writeCmd (BitVec.ofNat 32 w)

end Sys2Proof.Machine
end

