-- ==== Sys2Proof/Machine/Step.lean ====
section
/-!
DEFINITION. One step of the machine, and where it takes its next instruction: the head of the host's list
(10_state.md R46: the block has no program counter, its program is the host's command sequence).
-/

namespace Sys2Proof.Machine

/-- One step: a busy block goes on with its command, an idle one takes the host's next action. -/
def step (s : State) : Host.Outcome State Fault Refusal :=
  match s.running with
  | some r => busyTurn r s
  | none => idleTurn s

/-- The state in which the next step takes the given table word: the host is about to hand it to an idle block
(assumptions 3, 5). -/
def State.withFetchWord (s : State) (nbits w : Nat) : State :=
  { s with host := tableAction nbits w :: s.host, running := none }

end Sys2Proof.Machine
end

