-- ==== Sys2Proof/Safety.lean ====
section
/-!
DEFINITION. The terms in which claims speak of the machine: the invariant of the state, when a command may run, the
upcoming TDO bits, and scripts. A script lists TAP operations with what the target must answer to each; it says what
a command drives on the cable and under which answers of the target it ends.
-/

namespace Sys2Proof.Machine

/-! ## What every step keeps -/

/-- tap_shadow between commands: UNKNOWN or RUN_TEST_IDLE (10_state.md R22; 60_exceptions.md R190). -/
def restingTap (e : Engine) : Prop :=
  e.cable.shadow = none ∨ e.cable.shadow = some .runTestIdle

/-- ir_length is UNSET or 1..P_IR_LENGTH_MAX (10_state.md R29), and so is P_IR_LENGTH_UNKNOWN (00_scope.md R6). -/
def irLengthLegal (e : Engine) : Prop :=
  legalIrLength e.cfg.irLengthUnknown = true ∧ ∀ n, e.tap.irLength = some n → legalIrLength n = true

/-- FAULTED is set exactly when a code is recorded (60_exceptions.md R190, R191). -/
def faultRecorded (e : Engine) : Prop :=
  e.status.faulted = true ↔ e.status.faultCode ≠ .none

/-- DMA_ERR is set exactly when DMA_FAILS is not 0 (41_memory_access.md R115). -/
def dmaFailRecorded (e : Engine) : Prop :=
  e.status.dmaErr = true ↔ e.status.dmaFails ≠ 0#8

/-- use_dma is what RecomputeUseDma gives (41_memory_access.md R128), and ejtag_version is a field of impcode
(10_state.md R31). -/
def accessChosen (e : Engine) : Prop :=
  e.session.useDma = useDmaOf e.session.accessMode e.session.dmaCapable
    ∧ e.session.ejtagVersion = ejtagVersionOf e.cfg.imp e.session.impcode

/-- proc_index names a descriptor with the IDCODE read, and spi_layout is the one selected for it
(10_state.md R30, R34). -/
def processorKnown (e : Engine) : Prop :=
  (∀ k, e.session.procIndex = some k → ∃ d, e.cfg.procTable[k]? = some d ∧ d.idcode = e.session.idcode)
    ∧ e.session.spiLayout
        = (if e.session.idcodeValid = true then spiLayoutFor e.cfg e.session.idcode else none)

/-- cmd_type and flash_size are those of the descriptor flash_index names, or NONE and 0 without one
(10_state.md R35). -/
def flashKnown (e : Engine) : Prop :=
  match e.flash.index with
  | none => e.flash.cmdType = none ∧ e.flash.size = 0#32
  | some k => ∃ d, e.cfg.flashTable[k]? = some d ∧ e.flash.cmdType = some d.kind ∧ e.flash.size = d.size

/-- flash_base is the override if there is one, and P_FLASH_PROBE_BASE while there is neither an override nor a known
flash; the block table is the one built at flash_base (10_state.md R33, R36; 43_flash_probe.md R155, R156). -/
def windowPlaced (e : Engine) : Prop :=
  (∀ b, e.flash.windowOverride = some b → e.flash.base = b)
    ∧ (e.flash.windowOverride = none → e.flash.index = none → e.flash.base = e.cfg.flashProbeBase)
    ∧ e.flash.blockTable = blockTableOf e.cfg e.flash.index e.flash.base

/-- The invariant of the engine: it holds between the clocks of a command too. -/
structure EngineInv (e : Engine) : Prop where
  irLength : irLengthLegal e
  fault : faultRecorded e
  dmaFail : dmaFailRecorded e
  access : accessChosen e
  processor : processorKnown e
  flash : flashKnown e
  window : windowPlaced e

/-- What holds of a command in progress: it began in an engine that rests and meets the invariant, with the same
parameters and the same fault record, and it may run if FAULTED was already set. -/
structure RunningInv (e : Engine) (r : Running) : Prop where
  engine : EngineInv r.start
  resting : restingTap r.start
  parameters : r.start.cfg = e.cfg
  faulted : r.start.status.faulted = e.status.faulted
  faultCode : r.start.status.faultCode = e.status.faultCode
  allowed : e.status.faulted = true → runsWhileFaulted r.instr = true

/-- The invariant of the state. -/
structure Inv (s : State) : Prop where
  engine : EngineInv s.toEngine
  resting : s.running = none → restingTap s.toEngine
  running : ∀ r, s.running = some r → RunningInv s.toEngine r

/-! ## When a command may run -/

/-- The block is idle and not FAULTED: a command is neither ignored nor refused (60_exceptions.md R191,
70_reset_and_hazards.md R209). -/
def accepting (s : State) : Prop :=
  s.running = none ∧ s.status.faulted = false

/-- An IR-using command passes its checks with an IR of `length` bits (40_tap.md R93). -/
def ready (length : Nat) (s : State) : Prop :=
  accepting s ∧ s.cable.shadow = some .runTestIdle ∧ s.tap.irLength = some length

/-- The cable clocks one step may drive (assumption 1). -/
def clocksAllowed (s : State) : Nat :=
  s.cfg.clocksPerStep + 1

/-- The state whose engine is replaced, with no command in progress. -/
def ending (e : Engine) (s : State) : State :=
  { s with toEngine := e, running := none }

/-- The engine after a fault is taken that is the first one (60_exceptions.md R190). -/
def faultEntry (code : FaultCode) (info : Word) (e : Engine) : Engine :=
  { e with
    regs := { e.regs with result := info }
    status := { e.status with faulted := true, faultCode := code } }

/-- No poll gives up within `n` turns (60_exceptions.md R193). -/
def patient (p : Params) (n : Nat) : Prop :=
  ∀ bound, pollBound p = some bound → n < bound

/-- No check of a module fails in a command that uses MemRead and MemWrite (60_exceptions.md R189). -/
def modulesPresent (e : Engine) : Prop :=
  e.session.useDma = true ∨ ∀ m, moduleWords e.cfg m ≠ []

/-- The IR-using commands (40_tap.md R93). -/
def irUsingCommands : List Instr :=
  [.tapSetir, .features, .procReset, .procHalt, .procResume, .depcRead, .depcWrite,
   .memRead32, .memRead16, .memWrite32, .memWrite16, .dmaRead32, .dmaRead16, .dmaWrite32, .dmaWrite16,
   .praccRead32, .praccRead16, .praccWrite32, .praccWrite16, .execModule,
   .flashProbe, .flashEraseBlock, .flashProgramWord, .flashResetRead, .flashBypassEnter, .flashBypassExit,
   .spiChipErase, .areaBackup, .areaErase, .areaProgram]

/-- The DR-only commands (40_tap.md R93). -/
def drOnlyCommands : List Instr :=
  [.tapRwdata, .tapRdata, .tapWdata]

/-! ## The upcoming TDO bits -/

/-- The TDO bit of the clock that comes `n` clocks from now (10_state.md R44, assumption 2). -/
def tdoAt (c : Cable) (n : Nat) : Bool :=
  match c.tdoIn[n]? with
  | some b => b
  | none => Config.tdo (c.draws + (n - c.tdoIn.length))

/-- The cable after a run of clocks. -/
def driven (ks : List CableClock) (c : Cable) : Cable :=
  (runClocks ks c).2

/-- The word an RWData captures that starts `n` clocks from now: bit i is the bit of the i-th shift clock
(30_encoding.md R75). -/
def replyAt (c : Cable) (n : Nat) : Word :=
  capturedWord ((List.range 37).map fun i => tdoAt c (n + i))

/-! ## Scripts -/

/-- One TAP operation with what the target must answer: `SetIR(code)`, or `RWData(out)` whose captured word is
wanted. -/
inductive Exchange where
  | select (code : Word)
  | swap (out : Word) (wanted : Word → Bool)

/-- Any answer will do. -/
def anyReply : Word → Bool :=
  fun _ => true

/-- Bit `n` of the answer is `b`. -/
def bitIs (n : Nat) (b : Bool) : Word → Bool :=
  fun v => v.getLsbD n == b

/-- The answer is `d`. -/
def exactly (d : Word) : Word → Bool :=
  fun v => decide (v = d)

/-- The clocks of a script: a SetIR of the cached instruction drives none (40_tap.md R96). -/
def scriptClocks (length : Nat) : Option Word → List Exchange → List CableClock
  | _, [] => []
  | cache, .select code :: rest =>
      (if cache = some code then [] else irSequence length code) ++ scriptClocks length (some code) rest
  | cache, .swap out _ :: rest => drSequence out ++ scriptClocks length cache rest

/-- ir_cache after a script. -/
def scriptCache : Option Word → List Exchange → Option Word
  | cache, [] => cache
  | _, .select code :: rest => scriptCache (some code) rest
  | cache, .swap _ _ :: rest => scriptCache cache rest

/-- Whether the target answers a script as wanted; `n` clocks have been driven since the cable was `c`. -/
def answered (length : Nat) (c : Cable) : Nat → Option Word → List Exchange → Bool
  | _, _, [] => true
  | n, cache, .select code :: rest =>
      answered length c (if cache = some code then n else n + (length + 6)) (some code) rest
  | n, cache, .swap _ wanted :: rest =>
      wanted (replyAt c n) && answered length c (n + 37) cache rest

/-- The engine after a script: the clocks are driven and the last instruction selected is cached. -/
def afterScript (length : Nat) (script : List Exchange) (e : Engine) : Engine :=
  { e with
    cable := driven (scriptClocks length e.tap.irCache script) e.cable
    tap := { e.tap with irCache := scriptCache e.tap.irCache script } }

/-- The target answers a script as wanted, and one step may drive all its clocks. -/
def follows (length : Nat) (script : List Exchange) (s : State) : Prop :=
  answered length s.cable 0 s.tap.irCache script = true
    ∧ (scriptClocks length s.tap.irCache script).length ≤ clocksAllowed s

/-! ### Scripts of DMA accesses (41_memory_access.md R114) -/

/-- One turn of the DSTRT poll, with the bit it reads (41_memory_access.md R114). -/
def dstrtTurn (p : Params) (b : Bool) : Exchange :=
  .swap (ctlDmaPoll p.ctl) (bitIs p.ctl.dstrt b)

/-- The DSTRT poll that finds DSTRT = 0 after `turns` turns that read 1; absent for an erratum IDCODE
(41_memory_access.md R116, 60_exceptions.md R193). -/
def pollScript (p : Params) (skip : Bool) (turns : Nat) : List Exchange :=
  if skip then [] else List.replicate turns (dstrtTurn p true) ++ [dstrtTurn p false]

/-- The end of an attempt, with the DERR bit it reads. -/
def endScript (p : Params) (derr : Bool) : List Exchange :=
  [.select p.ir.control, .swap (ctlDmaEnd p.ctl) (bitIs p.ctl.derr derr)]

/-- An attempt up to its DSTRT poll (41_memory_access.md R114). -/
def startScript (p : Params) : Access → List Exchange
  | .read width addr =>
      [.select p.ir.address, .swap addr anyReply, .select p.ir.control, .swap (ctlDmaRead p.ctl width) anyReply]
  | .write width addr value =>
      [.select p.ir.address, .swap addr anyReply, .select p.ir.data, .swap value anyReply,
       .select p.ir.control, .swap (ctlDmaWrite p.ctl width) anyReply]

/-- One attempt of a DMA access whose poll reads DSTRT = 1 `turns` times; `d` is the DATA word a read captures
(41_memory_access.md R114). -/
def attemptScript (p : Params) (skip : Bool) (turns : Nat) (derr : Bool) : Access × Word → List Exchange
  | (.read width addr, d) =>
      startScript p (.read width addr) ++ pollScript p skip turns ++ [.select p.ir.data, .swap 0#32 (exactly d)]
        ++ endScript p derr
  | (.write width addr value, _) =>
      startScript p (.write width addr value) ++ pollScript p skip turns ++ endScript p derr

/-- One DMA access that succeeds at its first attempt, and whose poll is ready at once. -/
def dmaScript (p : Params) (skip : Bool) (item : Access × Word) : List Exchange :=
  attemptScript p skip 0 false item

/-- Attempts of one DMA access that all fail, one for each pair of poll turns and DATA word. -/
def failingScript (e : Engine) (access : Access) (ds : List (Nat × Word)) : List Exchange :=
  ds.flatMap fun x => attemptScript e.cfg (skipsDstrtPoll e.cfg e.session) x.1 true (access, x.2)

/-- A sequence of DMA accesses, each with the DATA word a read captures. -/
def busScript (e : Engine) (items : List (Access × Word)) : List Exchange :=
  items.flatMap (dmaScript e.cfg (skipsDstrtPoll e.cfg e.session))

/-- The value a DMA read of a width returns for the DATA word it captures (41_memory_access.md R114, 20_memory.md
R52). -/
def readDatum (p : Params) : Width → Word → Word → Word
  | .word, _, d => d
  | .half, addr, d => zext (lane p.endian addr d)

/-- A write cycle of the NOR command sequences: a halfword in both lanes (20_memory.md R53). -/
def cycle (addr : Word) (datum : Half) : Access × Word :=
  (.write .half addr (hw16 datum), 0#32)

/-- The engine after DMA accesses that succeed: the cable, the cache and the record of the accesses. -/
def afterBus (length : Nat) (items : List (Access × Word)) (e : Engine) : Engine :=
  { afterScript length (busScript e items) e with bus := e.bus ++ items.map Prod.fst }

/-- The DMA strategy is selected and the target answers the accesses at once. -/
def serves (length : Nat) (items : List (Access × Word)) (s : State) : Prop :=
  s.session.useDma = true ∧ follows length (busScript s.toEngine items) s

/-! ### Accesses of the flash sequences (44_flash_parallel.md, 45_flash_spi.md)

Each list is what one sequence issues for the part the engine has selected; a reply word is the DATA word of a read.
-/

/-- The part is driven with the AMD-style cycles: AMD or SST. -/
abbrev amdStyle (e : Engine) : Prop :=
  e.flash.cmdType = some .amd ∨ e.flash.cmdType = some .sst

/-- The part is driven with the Intel-style cycles: BSC or SCS. -/
abbrev bscStyle (e : Engine) : Prop :=
  e.flash.cmdType = some .bsc ∨ e.flash.cmdType = some .scs

/-- An SPI part with a controller layout. -/
abbrev spiStyle (e : Engine) : Prop :=
  e.flash.cmdType = some .spi ∧ e.session.spiLayout ≠ none

/-- P_NOR_CMD of an AMD-style part: SST's table for SST, else AMD's (30_encoding.md R84, R85). -/
def partTable (e : Engine) : AmdCommands :=
  if e.flash.cmdType = some .sst then e.cfg.sst else e.cfg.amd

/-- One cycle at a magic-word offset of the window (30_encoding.md R83). -/
def offsetItem (e : Engine) (offset : Word) (datum : Half) : Access × Word :=
  cycle (e.flash.base + (offset <<< 1)) datum

/-- UNLOCK1, UNLOCK2 and one more cycle at the first offset (44_flash_parallel.md R162, R166, R169). -/
def unlockItems (e : Engine) (datum : Half) : List (Access × Word) :=
  [offsetItem e (partTable e).unlock1Offset (partTable e).unlock1,
   offsetItem e (partTable e).unlock2Offset (partTable e).unlock2,
   offsetItem e (partTable e).unlock1Offset datum]

/-- BypassEnter (44_flash_parallel.md R169). -/
def enterItems (e : Engine) : List (Access × Word) :=
  if e.flash.bypassActive = true then [] else unlockItems e (partTable e).bypassEnter

/-- BypassExit (44_flash_parallel.md R170). -/
def exitItems (e : Engine) : List (Access × Word) :=
  if e.flash.bypassActive = true then
    [cycle e.flash.base (partTable e).bypassExit1, cycle e.flash.base (partTable e).bypassExit2]
  else []

/-- The last cycle of a reset-to-read; none for SPI (44_flash_parallel.md R168, 45_flash_spi.md R178). -/
def resetItems (e : Engine) : List (Access × Word) :=
  match e.flash.cmdType with
  | some .amd => [cycle e.flash.base e.cfg.amd.reset]
  | some .sst => [cycle e.flash.base e.cfg.sst.reset]
  | some .bsc => [cycle e.flash.base e.cfg.bsc.readArray]
  | some .scs => [cycle e.flash.base e.cfg.bsc.readArray]
  | some .spi => []
  | none => []

/-- The controller layout of the session (45_flash_spi.md R171). -/
def sessionLayout (e : Engine) : SpiLayout :=
  match e.session.spiLayout with
  | some .atheros => e.cfg.atheros
  | some .broadcom => e.cfg.broadcom
  | none => e.cfg.broadcom

/-- The start of an SPI transaction and one busy poll; `free` is the control value the poll reads
(45_flash_spi.md R172). -/
def startItems (l : SpiLayout) (code free : Word) : List (Access × Word) :=
  [(.write .word l.ctrlReg (l.start ||| code), 0#32), (.read .word l.ctrlReg, free)]

/-- The RDSR transaction of one WIP poll, with the status it reads (45_flash_spi.md R173). -/
def wipItems (l : SpiLayout) (free status : Word) : List (Access × Word) :=
  startItems l l.code.rdsr free ++ [(.read .word l.dataReg, status)]

/-- An SPI operation that changes the part: WREN, the address and data if any, the opcode, the WIP poll
(45_flash_spi.md R174, R175, R177). -/
def spiChangeItems (l : SpiLayout) (puts : List (Access × Word)) (code free status : Word) :
    List (Access × Word) :=
  startItems l l.code.wren free ++ puts ++ startItems l code free ++ wipItems l free status

/-- The erase of the block at `a`, reset-to-read included, outside bypass mode; `r1` and `r2` are what the status reads
get (44_flash_parallel.md R161-R164, 45_flash_spi.md R174). -/
def eraseItems (e : Engine) (a r1 r2 free : Word) : List (Access × Word) :=
  (match e.flash.cmdType with
    | some .spi =>
        spiChangeItems (sessionLayout e)
          [(.write .word (sessionLayout e).addrReg ((a - e.flash.base) &&& 0x00FFFFFF#32), 0#32)]
          (sessionLayout e).code.se free r1
    | some .bsc | some .scs =>
        [cycle a e.cfg.bsc.clearStatus, cycle a e.cfg.bsc.unlockSetup, cycle a e.cfg.bsc.confirm,
         cycle a e.cfg.bsc.readStatus, (.read .half a, r1),
         cycle a e.cfg.bsc.clearStatus, cycle a e.cfg.bsc.eraseSetup, cycle a e.cfg.bsc.confirm,
         cycle a e.cfg.bsc.readStatus, (.read .half a, r2)]
    | some .amd | some .sst =>
        unlockItems e (partTable e).eraseSetup
          ++ [offsetItem e (partTable e).unlock1Offset (partTable e).unlock1,
              offsetItem e (partTable e).unlock2Offset (partTable e).unlock2,
              cycle a (partTable e).sectorErase, (.read .half a, r1)]
    | none => [])
    ++ resetItems e

/-- The status reads of that erase show the part ready at once: bit 7, or a free controller and WIP = 0
(44_flash_parallel.md R162, R164, 45_flash_spi.md R172, R173). -/
def eraseReady (e : Engine) (a r1 r2 free : Word) : Prop :=
  match e.flash.cmdType with
  | some .spi => free.getLsbD (sessionLayout e).busyBit = false ∧ r1.getLsbD e.cfg.wipBit = false
  | some .bsc | some .scs =>
      (lane e.cfg.endian a r1).getLsbD e.cfg.nor.bscReady = true
        ∧ (lane e.cfg.endian a r2).getLsbD e.cfg.nor.bscReady = true
  | some .amd | some .sst => (lane e.cfg.endian a r1).getLsbD e.cfg.nor.amdReady = true
  | none => False

/-- The halves of a word in the order they are programmed: the one at the lower address first
(44_flash_parallel.md R165). -/
def programOrder (e : Engine) (w : Word) : Half × Half :=
  if (e.options.st5 || (e.session.idcodeValid && isAtheros e.cfg e.session.idcode)) = true
  then (w.extractLsb' 16 16, w.extractLsb' 0 16) else (w.extractLsb' 0 16, w.extractLsb' 16 16)

/-- One half programmed on an AMD-style part, in bypass mode or not, with the reply to its poll
(44_flash_parallel.md R166). -/
def halfItemsAmd (e : Engine) (bypass : Bool) (a : Word) (h : Half) (r : Word) : List (Access × Word) :=
  (if bypass then [cycle e.flash.base (partTable e).bypassProgram] else unlockItems e (partTable e).program)
    ++ [cycle a h, (.read .half a, r)]

/-- One half programmed on an Intel-style part (44_flash_parallel.md R167). -/
def halfItemsBsc (e : Engine) (a : Word) (h : Half) (r : Word) : List (Access × Word) :=
  [cycle a e.cfg.bsc.clearStatus, cycle a e.cfg.bsc.programSetup, cycle a h, (.read .half a, r)]

/-- The program of word `w` at `a` with bypass mode as given, its own reset-to-read included; `r1` and `r2` are what the
polls read (44_flash_parallel.md R165, 45_flash_spi.md R175). -/
def programItems (e : Engine) (bypass : Bool) (a w r1 r2 free : Word) : List (Access × Word) :=
  match e.flash.cmdType with
  | some .spi =>
      spiChangeItems (sessionLayout e)
        [(.write .word (sessionLayout e).addrReg ((a - e.flash.base) &&& 0x00FFFFFF#32), 0#32),
         (.write .word (sessionLayout e).dataReg w, 0#32)]
        (sessionLayout e).code.pp free r1
  | some .bsc | some .scs =>
      halfItemsBsc e a (programOrder e w).1 r1 ++ halfItemsBsc e (a + 2#32) (programOrder e w).2 r2 ++ resetItems e
  | some .amd | some .sst =>
      halfItemsAmd e bypass a (programOrder e w).1 r1 ++ halfItemsAmd e bypass (a + 2#32) (programOrder e w).2 r2
        ++ (if bypass then [] else resetItems e)
  | none => []

/-- The polls of that program end at once: the half is read back, or bit 7 is 1, or the controller is free and WIP = 0
(44_flash_parallel.md R166, R167, 45_flash_spi.md R172, R173). -/
def programReady (e : Engine) (a w r1 r2 free : Word) : Prop :=
  match e.flash.cmdType with
  | some .spi => free.getLsbD (sessionLayout e).busyBit = false ∧ r1.getLsbD e.cfg.wipBit = false
  | some .bsc | some .scs =>
      (lane e.cfg.endian a r1).getLsbD e.cfg.nor.bscReady = true
        ∧ (lane e.cfg.endian (a + 2#32) r2).getLsbD e.cfg.nor.bscReady = true
  | some .amd | some .sst =>
      lane e.cfg.endian a r1 = (programOrder e w).1 ∧ lane e.cfg.endian (a + 2#32) r2 = (programOrder e w).2
  | none => False

/-- A poll of a flash command at the site `site`, after the accesses `before`: each turn issues `turn v`, where `v` is the
word its last read captures. While turns are not ready the poll goes on; with as many as the bound allows it takes
F_TIMEOUT there, and with fewer the command ends after the accesses `rest` (60_exceptions.md R193). -/
def pollSite (length : Nat) (s : State) (i : Instr) (site : Word) (flash : Flash) (before : List (Access × Word))
    (turn : Word → List (Access × Word)) (isReady : Word → Bool) (rest : List (Access × Word)) : Prop :=
  ∀ (busy : List Word) (items : List (Access × Word)), (∀ v ∈ busy, isReady v = false) →
    (pollBound s.cfg = some busy.length → items = before ++ busy.flatMap turn → serves length items s →
      exec i s = .next (ending
        (faultEntry .timeout site { afterBus length items s.toEngine with flash := flash }) s))
    ∧ (∀ v, patient s.cfg busy.length → isReady v = true → items = before ++ busy.flatMap turn ++ turn v ++ rest →
      serves length items s →
      exec i s = .next (ending { afterBus length items s.toEngine with flash := flash } s))

/-- Whether a program is done in bypass mode: the mode is active, or opt_bypass has it entered first
(44_flash_parallel.md R165). -/
def programsInBypass (e : Engine) : Bool :=
  e.flash.bypassActive || e.options.bypass

/-- The words AREA_PROGRAM takes from a stream (46_area_ops.md R180). -/
def takenWords (swap : Bool) : Nat → List Byte → List Word
  | 0, _ => []
  | n + 1, bytes => (takeWord swap bytes).1.1 :: takenWords swap n (takeWord swap bytes).2

/-! ### Scripts of the executor (42_debug_executor.md R134-R141) -/

/-- The target shows a pending access with CONTROL value `c` at address `a`. -/
def pendingScript (p : Params) (c a : Word) : List Exchange :=
  [.select p.ir.control, .swap (ctlPraccPoll p.ctl) (exactly c), .select p.ir.address, .swap 0#32 (exactly a)]

/-- The pending access is cleared. -/
def completeScript (p : Params) : List Exchange :=
  [.select p.ir.control, .swap (ctlPraccDone p.ctl) anyReply]

/-- A pending read of `a`, answered with `w`. -/
def fetchScript (p : Params) (c a w : Word) : List Exchange :=
  pendingScript p c a ++ [.select p.ir.data, .swap w anyReply] ++ completeScript p

/-- A pending write of `d` to `a`. -/
def storeScript (p : Params) (c a d : Word) : List Exchange :=
  pendingScript p c a ++ [.select p.ir.data, .swap 0#32 (exactly d)] ++ completeScript p

/-- A CONTROL value that shows a pending read. -/
def showsRead (p : Params) (c : Word) : Prop :=
  c.getLsbD p.ctl.pracc = true ∧ c.getLsbD p.ctl.prnw = false

/-- A CONTROL value that shows a pending write. -/
def showsWrite (p : Params) (c : Word) : Prop :=
  c.getLsbD p.ctl.pracc = true ∧ c.getLsbD p.ctl.prnw = true

/-! ### Runs of the executor (42_debug_executor.md R134-R142) -/

/-- One access of the target to the debug segment: how many pending polls find PRACC = 0 before it, the CONTROL value
that shows it, its address, and what a write stores. -/
inductive Service where
  | fetch (waits : Nat) (control addr : Word)
  | store (waits : Nat) (control addr datum : Word)
deriving DecidableEq, Repr

/-- The address of an access. -/
def serviceAddress : Service → Word
  | .fetch _ _ a => a
  | .store _ _ a _ => a

/-- Turns of the pending poll that find PRACC = 0 (42_debug_executor.md R135). -/
def waitingScript (p : Params) (waits : Nat) : List Exchange :=
  .select p.ir.control :: List.replicate waits (.swap (ctlPraccPoll p.ctl) (bitIs p.ctl.pracc false))

/-- What a read at `a` is answered with: a module word at or above the vector, a virtual register, or exec_data
(42_debug_executor.md R139, R140); none outside the module. -/
def readAnswer (p : Params) (words : List Word) (v : VirtualRegs) (a : Word) : Option Word :=
  if p.debugVector ≤ a then words[(a.toNat - p.debugVector.toNat) / 4]?
  else if a = p.vregAddr then some v.address
  else if a = p.vregData then some v.data
  else some v.execData

/-- The virtual registers after one access (42_debug_executor.md R137, R138, R141). -/
def serviceRegs (p : Params) (words : List Word) (v : VirtualRegs) : Service → VirtualRegs
  | .fetch _ _ a =>
      { v with
        execData := (readAnswer p words v a).getD 0#32
        vectorReads := if a = p.debugVector then v.vectorReads + 1 else v.vectorReads }
  | .store _ _ a d =>
      { v with
        address := if a = p.vregAddr then d else v.address
        data := if a ≠ p.vregAddr ∧ a = p.vregData then d else v.data
        execData := d }

/-- One access on the wire, from the virtual registers it finds. -/
def serviceScript (p : Params) (words : List Word) (v : VirtualRegs) : Service → List Exchange
  | .fetch waits c a => waitingScript p waits ++ fetchScript p c a ((readAnswer p words v a).getD 0#32)
  | .store waits c a d => waitingScript p waits ++ storeScript p c a d

/-- The target may make the access: CONTROL shows its direction, a read has an answer, and no poll gives up. -/
def serviceLegal (p : Params) (words : List Word) (v : VirtualRegs) : Service → Prop
  | .fetch waits c a => patient p waits ∧ showsRead p c ∧ readAnswer p words v a ≠ none
  | .store waits c _ _ => patient p waits ∧ showsWrite p c

/-- The virtual registers after a run of accesses. -/
def runRegs (p : Params) (words : List Word) : VirtualRegs → List Service → VirtualRegs
  | v, [] => v
  | v, x :: rest => runRegs p words (serviceRegs p words v x) rest

/-- A run of accesses on the wire. -/
def runScript (p : Params) (words : List Word) : VirtualRegs → List Service → List Exchange
  | _, [] => []
  | v, x :: rest => serviceScript p words v x ++ runScript p words (serviceRegs p words v x) rest

/-- The target may make a run of accesses. -/
def runLegal (p : Params) (words : List Word) : VirtualRegs → List Service → Prop
  | _, [] => True
  | v, x :: rest => serviceLegal p words v x ∧ runLegal p words (serviceRegs p words v x) rest

/-- How many reads of the debug vector a run has (42_debug_executor.md R138). -/
def vectorFetches (p : Params) (run : List Service) : Nat :=
  run.countP fun
    | .fetch _ _ a => decide (a = p.debugVector)
    | .store _ _ _ _ => false

/-- A module run that ends at vector re-entry, from the virtual registers `v`: any accesses with one vector read among
them, then a pending vector read, which ends the run before it is served (42_debug_executor.md R134-R142). `waits` polls
come before it, and `c` is the CONTROL value that shows it. -/
def endsAtVector (length : Nat) (s : State) (words : List Word) (v : VirtualRegs) (run : List Service) (waits : Nat)
    (c : Word) (script : List Exchange) : Prop :=
  words ≠ [] ∧ runLegal s.cfg words v run ∧ vectorFetches s.cfg run = 1
    ∧ patient s.cfg run.length ∧ patient s.cfg waits ∧ showsRead s.cfg c
    ∧ script = runScript s.cfg words v run ++ waitingScript s.cfg waits ++ pendingScript s.cfg c s.cfg.debugVector
    ∧ follows length script s

/-- The number of the first module of a list that has no words, for modules given as (words, number). -/
def firstMissing : List (List Word × Word) → Option Word
  | [] => none
  | (words, number) :: rest => if words = [] then some number else firstMissing rest

/-- The command needs these modules, in order of use: with one of them empty it takes F_NO_MODULE and does nothing else
(60_exceptions.md R189). -/
def needsModules (s : State) (i : Instr) (modules : List (List Word × Word)) : Prop :=
  ∀ number, firstMissing modules = some number →
    exec i s = .next (ending (faultEntry .noModule number s.toEngine) s)

/-! ### DETECT's reads (40_tap.md R103) -/

/-- The clocks of `ReadId(L)`: a TestReset, SetIR(IDCODE) and RWData(0). -/
def readIdClocks (p : Params) (length : Nat) : List CableClock :=
  resetSequence ++ resetExit ++ irSequence length p.ir.idcode ++ drSequence 0#32

/-- The word `ReadId(L)` reads after ReadIds at the lengths `before`, each of which drives its length + 49 clocks. -/
def readIdReply (c : Cable) (before : List Nat) (length : Nat) : Word :=
  replyAt c ((before.map (· + 49)).sum + (length + 12))

/-- The lengths of the processor table, in its order. -/
def tableLengths (p : Params) : List Nat :=
  p.procTable.map fun d => tableIrLength d.irLength

/-- The engine after DETECT has made ReadIds at `lengths`, the last of them at `length`, and recorded the IDCODE `id` with
the descriptor `index`. -/
def detected (lengths : List Nat) (length : Nat) (id : Word) (index : Option Nat) (e : Engine) : Engine :=
  { e with
    regs := { e.regs with result := id }
    status := { e.status with unknownCpu := index.isNone }
    cable := { driven (lengths.flatMap (readIdClocks e.cfg)) e.cable with shadow := some .runTestIdle }
    tap := { irCache := some e.cfg.ir.idcode, irLength := some length }
    session := { e.session with
      idcode := id, idcodeValid := true, procIndex := index, spiLayout := spiLayoutFor e.cfg id } }

/-! ### The trials of a probe (43_flash_probe.md R147-R154, 45_flash_spi.md R176)

Each is the IDs it finds and the accesses it issues, for the words the target answers its reads with.
-/

/-- What the reads of a NOR trial capture. -/
structure IdReplies where
  vendor : Word
  device : Word
  subHigh : Word
  subLow : Word
deriving DecidableEq, Repr

/-- The vendor and device IDs read at `base` (30_encoding.md R87). -/
def readIdsAt (e : Engine) (base : Word) (r : IdReplies) : Half × Half :=
  (lane e.cfg.endian (base + e.cfg.nor.vendor) r.vendor, lane e.cfg.endian (base + e.cfg.nor.device) r.device)

/-- The two reads of those IDs. -/
def idItems (e : Engine) (base : Word) (r : IdReplies) : List (Access × Word) :=
  [(.read .half (base + e.cfg.nor.vendor), r.vendor), (.read .half (base + e.cfg.nor.device), r.device)]

/-- The Spansion pair (43_flash_probe.md R153). -/
def spansionPair (ids : Half × Half) : Bool :=
  decide (ids = (0x0001#16, 0x227E#16))

/-- The Winbond pair, told by its low bytes (43_flash_probe.md R154). -/
def winbondPair (ids : Half × Half) : Bool :=
  decide (ids.1.extractLsb' 0 8 = 0xDA#8 ∧ ids.2.extractLsb' 0 8 = 0x7E#8)

/-- The device ID that the low bytes of the two sub-ID reads make (43_flash_probe.md R153). -/
def subIdAt (e : Engine) (base : Word) (r : IdReplies) : Half :=
  (lane e.cfg.endian (base + e.cfg.nor.subHigh) r.subHigh).extractLsb' 0 8
    ++ (lane e.cfg.endian (base + e.cfg.nor.subLow) r.subLow).extractLsb' 0 8

/-- A trial of an AMD-style family: the colliding pairs are corrected by two more reads before the reset
(43_flash_probe.md R148, R149, R153, R154). -/
def amdTrial (e : Engine) (base : Word) (t : AmdCommands) (r : IdReplies) : (Half × Half) × List (Access × Word) :=
  (if spansionPair (readIdsAt e base r) = true then (0x017E#16, subIdAt e base r)
    else if winbondPair (readIdsAt e base r) = true then ((readIdsAt e base r).1, subIdAt e base r)
    else readIdsAt e base r,
   [cycle (base + (t.unlock1Offset <<< 1)) t.unlock1, cycle (base + (t.unlock2Offset <<< 1)) t.unlock2,
    cycle (base + (t.unlock1Offset <<< 1)) t.autoselect] ++ idItems e base r
    ++ (if spansionPair (readIdsAt e base r) = true ∨ winbondPair (readIdsAt e base r) = true
        then [(.read .half (base + e.cfg.nor.subHigh), r.subHigh), (.read .half (base + e.cfg.nor.subLow), r.subLow)]
        else [])
    ++ [cycle base t.reset])

/-- The trial of the Intel-style families (43_flash_probe.md R150). -/
def bscTrial (e : Engine) (base : Word) (r : IdReplies) : (Half × Half) × List (Access × Word) :=
  (readIdsAt e base r,
   [cycle base e.cfg.bsc.readId] ++ idItems e base r ++ [cycle base e.cfg.bsc.readArray])

/-- The SPI trial: the vendor is RDID's low byte, the device its next two bytes, the earlier one high
(43_flash_probe.md R151, 45_flash_spi.md R176). -/
def spiTrial (e : Engine) (free rdid : Word) : (Half × Half) × List (Access × Word) :=
  ((0#8 ++ rdid.extractLsb' 0 8, rdid.extractLsb' 8 8 ++ rdid.extractLsb' 16 8),
   startItems (sessionLayout e) (sessionLayout e).code.rdid free ++ [(.read .word (sessionLayout e).dataReg, rdid)])

/-- The trials in their fixed order; without a layout there is no SPI trial (43_flash_probe.md R147, R151). -/
def probeTrials (e : Engine) (base : Word) (amd sst bsc : IdReplies) (free rdid : Word) :
    List ((Half × Half) × List (Access × Word)) :=
  [amdTrial e base e.cfg.amd amd, amdTrial e base e.cfg.sst sst, bscTrial e base bsc]
    ++ (if e.session.spiLayout = none then [] else [spiTrial e free rdid])

end Sys2Proof.Machine
end

