-- ==== Sys2Proof/Certificates/Slice0/Obligations.lean ====
section
/-!
DEFINITION. The statements for the provers. A statement of what an instruction does gives the whole next state, so it
is the instruction's frame too: every field it does not name is unchanged.
-/

open Sys2Proof Sys2Proof.Machine

/-! ## Reset, invariant, step -/

/-- 10_state.md R47: the reset value of every field of the spec's state, and no clock has been driven. -/
def Obligations.ResetValues : Prop :=
  State.reset.cable.shadow = none
    ∧ State.reset.regs = { cmd := 0x00000000#32, a := 0x00000000#32, b := 0x00000000#32, result := 0x00000000#32 }
    ∧ statusWord State.reset = 0x00000000#32
    ∧ State.reset.tap = { irCache := none, irLength := none }
    ∧ State.reset.session
        = { idcode := 0#32, idcodeValid := false, procIndex := none, impcode := 0#32, ejtagVersion := 0#3,
            dmaCapable := false, accessMode := .auto, useDma := false, spiLayout := none }
    ∧ State.reset.flash
        = { base := State.reset.cfg.flashProbeBase, windowOverride := none, cmdType := none, index := none,
            size := 0#32, vendorId := 0#16, deviceId := 0#16, blockTable := [], bypassActive := false }
    ∧ State.reset.area
        = { valid := false, start := 0#32, length := 0#32, customStart := none, customLength := none }
    ∧ State.reset.options = { bypass := false, st5 := false, swapEndian := false, reboot := false }
    ∧ State.reset.vregs = { address := 0#32, data := 0#32, execData := 0#32, vectorReads := 0 }
    ∧ State.reset.status.dmaFails = 0#8 ∧ State.reset.status.dmaErr = false
    ∧ State.reset.status.faulted = false ∧ State.reset.status.faultCode = .none
    ∧ State.reset.running = none ∧ State.reset.cable.clocks = []

/-- The invariant holds after reset. -/
def Obligations.InvariantAtReset : Prop :=
  Inv State.reset

/-- Every step keeps the invariant, from every state that has it, and no step changes a parameter (00_scope.md R6). -/
def Obligations.InvariantKept : Prop :=
  ∀ s t : State, Inv s → step s = .next t → Inv t ∧ t.cfg = s.cfg

/-- 60_exceptions.md R191: once FAULTED = 1 it stays 1 and FAULT_CODE keeps its code, until block reset. -/
def Obligations.FaultSticky : Prop :=
  ∀ s t : State, Inv s → s.status.faulted = true → s.host.head? ≠ some .blockReset → step s = .next t →
    t.status.faulted = true ∧ t.status.faultCode = s.status.faultCode

/-- 60_exceptions.md R190 (derived there): a command that has ended leaves tap_shadow at UNKNOWN or RUN_TEST_IDLE, and at
RUN_TEST_IDLE if it was there when the command began: a command that begins and ends in one step, and one in progress
that ends in this step (the cut into steps: assumption 1). A command still in progress after the step is not spoken of. -/
def Obligations.IdleTapStaysIdle : Prop :=
  (∀ (i : Instr) (s t : State), Inv s → s.running = none → exec i s = .next t → t.running = none →
      (t.cable.shadow = none ∨ t.cable.shadow = some .runTestIdle)
      ∧ (s.cable.shadow = some .runTestIdle → t.cable.shadow = some .runTestIdle))
    ∧ ∀ (r : Running) (s t : State), Inv s → s.running = some r → exec r.instr s = .next t → t.running = none →
      (t.cable.shadow = none ∨ t.cable.shadow = some .runTestIdle)
      ∧ (r.start.cable.shadow = some .runTestIdle → t.cable.shadow = some .runTestIdle)

/-- 70_reset_and_hazards.md R202: block reset, obeyed by an idle and by a busy block alike, sets every field of the
spec's state to its reset value and drives no clock and no target access. That parameters, streams and the host's
list stay is the model's choice (assumption 13). -/
def Obligations.BlockReset : Prop :=
  ∀ (s : State) (rest : List HostAction), s.host = .blockReset :: rest →
    ∃ t, step s = .next t ∧ t.running = none ∧ t.host = rest ∧ statusWord t = 0#32
      ∧ t.regs = (Engine.reset s.cfg).regs ∧ t.status = (Engine.reset s.cfg).status
      ∧ t.tap = (Engine.reset s.cfg).tap ∧ t.session = (Engine.reset s.cfg).session
      ∧ t.flash = (Engine.reset s.cfg).flash ∧ t.area = (Engine.reset s.cfg).area
      ∧ t.options = (Engine.reset s.cfg).options ∧ t.vregs = (Engine.reset s.cfg).vregs
      ∧ t.cable = { s.cable with shadow := none }
      ∧ t.streams = s.streams ∧ t.bus = s.bus ∧ t.cfg = s.cfg

/-- 10_state.md R26, R23, 60_exceptions.md R188: every field of STATUS as the host reads it, in every state: BUSY, the
flags, TAP_VALID, the encoding of the TAP states (0 while UNKNOWN), the reserved bits, the fault numbers and DMA_FAILS. -/
def Obligations.StatusLayout : Prop :=
  ∀ s : State,
    (statusWord s).getLsbD 0 = s.running.isSome ∧ (statusWord s).getLsbD 1 = s.status.faulted
    ∧ (statusWord s).getLsbD 2 = s.status.dmaErr ∧ (statusWord s).getLsbD 3 = s.status.unknownCpu
    ∧ (statusWord s).getLsbD 4 = s.status.unknownFlash ∧ (statusWord s).getLsbD 5 = s.status.skipped
    ∧ (statusWord s).getLsbD 6 = s.status.inDebug ∧ (statusWord s).getLsbD 7 = s.cable.shadow.isSome
    ∧ (∀ x ∈ [(none, 0x0#4), (some TapState.testLogicReset, 0xF#4), (some .runTestIdle, 0xC#4),
          (some .selectDr, 0x7#4), (some .captureDr, 0x6#4), (some .shiftDr, 0x2#4), (some .exit1Dr, 0x1#4),
          (some .pauseDr, 0x3#4), (some .exit2Dr, 0x0#4), (some .updateDr, 0x5#4), (some .selectIr, 0x4#4),
          (some .captureIr, 0xE#4), (some .shiftIr, 0xA#4), (some .exit1Ir, 0x9#4), (some .pauseIr, 0xB#4),
          (some .exit2Ir, 0x8#4), (some .updateIr, 0xD#4)],
        s.cable.shadow = x.1 → (statusWord s).extractLsb' 8 4 = x.2)
    ∧ (statusWord s).extractLsb' 12 4 = 0x0#4
    ∧ (∀ x ∈ [(FaultCode.none, 0x00#8), (.illegalCmd, 0x01#8), (.noIrLen, 0x02#8), (.tapUnsync, 0x03#8),
          (.moduleRange, 0x04#8), (.noFlash, 0x05#8), (.unsupported, 0x06#8), (.timeout, 0x07#8),
          (.badArea, 0x08#8), (.stream, 0x09#8), (.badOperand, 0x0A#8), (.noModule, 0x0B#8)],
        s.status.faultCode = x.1 → (statusWord s).extractLsb' 16 8 = x.2)
    ∧ (statusWord s).extractLsb' 24 8 = s.status.dmaFails

/-- 60_exceptions.md R191: while FAULTED = 1 every command but TAP_RESET and SESSION_END is refused: no field changes.
That the rows of the other ports are refused too is the model's choice (assumption 4). -/
def Obligations.RefusedWhileFaulted : Prop :=
  ∀ (i : Instr) (s : State), s.running = none → s.status.faulted = true → i ≠ .tapReset → i ≠ .sessionEnd →
    exec i s = .next s

/-- 70_reset_and_hazards.md R209: a host write while BUSY = 1 is ignored: the command in progress, its operands and every
other field are unchanged. Otherwise, and without a block reset, a busy block goes on with its command and the host's
next action waits (the model's form of BUSY: assumption 1). -/
def Obligations.BusyBlock : Prop :=
  ∀ (s : State) (r : Running), s.running = some r →
    (∀ v rest, (s.host = .writeA v :: rest ∨ s.host = .writeB v :: rest ∨ s.host = .writeCmd v :: rest) →
      step s = .next { s with host := rest })
    ∧ ((s.host = [] ∨ s.host.head? = some .awaitIdle
        ∨ (∃ ok bytes, s.host.head? = some (.openStreams ok bytes))
        ∨ (∃ p w, s.host.head? = some (.present p w))) →
      step s = exec r.instr s)

/-- A step runs the decoded instruction: a CMD write to an idle block sets CMD and runs the command its word decodes
to, and a word presented at another port runs that row, leaving CMD (assumptions 3, 4). -/
def Obligations.StepRunsDecoded : Prop :=
  (∀ (s : State) (w : Word) (i : Instr) (rest : List HostAction), s.running = none →
      s.host = .writeCmd w :: rest → decode .command w = .ok i →
      step s = exec i { s with regs := { s.regs with cmd := w }, host := rest })
    ∧ (∀ (s : State) (p : Port) (w : Word) (i : Instr) (rest : List HostAction), s.running = none → p ≠ .command →
        s.host = .present p w :: rest → decode p w = .ok i → step s = exec i { s with host := rest })

/-- What the host's other actions do to an idle block (10_state.md R24, 46_area_ops.md R180, 30_encoding.md R71; the
list form is the model's, assumption 3). -/
def Obligations.HostActions : Prop :=
  ∀ (s : State) (rest : List HostAction), s.running = none →
    (∀ v, s.host = .writeA v :: rest → step s = .next { s with regs := { s.regs with a := v }, host := rest })
    ∧ (∀ v, s.host = .writeB v :: rest → step s = .next { s with regs := { s.regs with b := v }, host := rest })
    ∧ (s.host = .awaitIdle :: rest → step s = .next { s with host := rest })
    ∧ (∀ ok bytes, s.host = .openStreams ok bytes :: rest →
        step s = .next { s with streams := { ok := ok, input := bytes, output := [] }, host := rest })
    ∧ (s.host = [] → step s = .next s)

/-- Where a command is cut into steps does not matter (assumption 1): a command that ends within the clocks of one
step ends in the same state when it was begun earlier, `k` clocks of it were allowed, and it is now gone on with,
whatever engine `e` the cut left. -/
def Obligations.CutDoesNotMatter : Prop :=
  ∀ (i : Instr) (s t : State) (e : Engine) (k : Nat), s.running = none → e.cfg = s.cfg → exec i s = .next t →
    t.running = none →
    exec i { s with toEngine := e, running := some { instr := i, start := s.toEngine, budget := k } } = .next t

/-! ## Encoding -/

/-- 30_encoding.md R66-R69, R77-R89: decoding an encoded well-formed row gives it back, at every IR length. -/
def Obligations.RoundTrip : Prop :=
  ∀ (length : Nat) (i : Instr), wellFormed length i = true →
    decode (encode length i).1 (encode length i).2 = .ok i

/-- A word that decodes at a port is the encoding of the row it decodes to, but for the bits above the IR length, which
never reach the wire (30_encoding.md R76). -/
def Obligations.DecodedWordIsEncoded : Prop :=
  ∀ (p : Port) (w : Word) (i : Instr), decode p w = .ok i → belongsAt p i = true
    ∧ match p with
      | .instructionRegister length => (encodeWord length i).toNat = w.toNat % 2 ^ length
      | _ => encodeWord 0 i = w

/-- Words written out from the tables of the spec decode to their rows. -/
def Obligations.DecodedWords : Prop :=
  decode .command 0x00000001#32 = .ok .tapReset
    ∧ decode .command 0x00000011#32 = .ok .detect
    ∧ decode .command 0x00000030#32 = .ok .memRead32
    ∧ decode .command 0x00000042#32 = .ok .flashProgramWord
    ∧ decode .command 0x00000060#32 = .ok .sessionEnd
    ∧ decode (.instructionRegister 5) 0x0A#32 = .ok .irControl
    ∧ decode (.instructionRegister 5) 0x1F#32 = .ok .irBypass
    ∧ decode .control 0x00068B00#32 = .ok .ctlDmaRdW
    ∧ decode (.nor .amd .unlock1) 0x00AA#32 = .ok .amdUnlock1
    ∧ decode (.nor .sst .target) 0x0050#32 = .ok .sstSectorErase
    ∧ decode (.nor .bsc .base) 0x00FF#32 = .ok .bscReadArray
    ∧ decode .spiOpcode 0xD8#32 = .ok .spiSe
    ∧ decode .spiControl 0x800000C7#32 = .ok .spiBeBroadcomCtrl

/-- 30_encoding.md R69, 60_exceptions.md R189-R191: the reserved command words are exactly those listed; a CMD write of one
raises F_ILLEGAL_CMD with the word as info before it changes anything but CMD, and while FAULTED = 1 it is refused.
That CMD keeps the word is the model's reading (assumption 14). -/
def Obligations.IllegalCommand : Prop :=
  (∀ w : Word, (∃ why, decode .command w = .error why) ↔
    (w.extractLsb' 8 24 ≠ 0#24 ∨ w.toNat % 256 = 0x00
      ∨ (0x06 ≤ w.toNat % 256 ∧ w.toNat % 256 ≤ 0x0F) ∨ (0x19 ≤ w.toNat % 256 ∧ w.toNat % 256 ≤ 0x1F)
      ∨ (0x25 ≤ w.toNat % 256 ∧ w.toNat % 256 ≤ 0x2F) ∨ w.toNat % 256 = 0x3F
      ∨ (0x47 ≤ w.toNat % 256 ∧ w.toNat % 256 ≤ 0x4F) ∨ (0x53 ≤ w.toNat % 256 ∧ w.toNat % 256 ≤ 0x5F)
      ∨ (0x61 ≤ w.toNat % 256 ∧ w.toNat % 256 ≤ 0xFF)))
    ∧ ∀ (s : State) (w : Word) (why : Reject) (rest : List HostAction), s.running = none →
      s.host = .writeCmd w :: rest → decode .command w = .error why →
      (s.status.faulted = false →
        step s = .next { s with
          regs := { s.regs with cmd := w, result := w }
          status := { s.status with faulted := true, faultCode := .illegalCmd }
          host := rest })
      ∧ (s.status.faulted = true → step s = .next { s with regs := { s.regs with cmd := w }, host := rest })

/-! ## Precondition checks -/

/-- 40_tap.md R93: the checks of the DR-only and IR-using classes, in order, before anything changes. The fault entry is
60_exceptions.md R190: the code, FAULTED, and the CMD word in RESULT. -/
def Obligations.ClassChecks : Prop :=
  ∀ s : State, accepting s →
    (∀ i, (i ∈ irUsingCommands ∨ i ∈ drOnlyCommands) → s.cable.shadow ≠ some .runTestIdle →
      exec i s = .next { s with
        regs := { s.regs with result := s.regs.cmd }
        status := { s.status with faulted := true, faultCode := .tapUnsync } })
    ∧ (∀ i, i ∈ irUsingCommands → s.cable.shadow = some .runTestIdle → s.tap.irLength = none →
      exec i s = .next { s with
        regs := { s.regs with result := s.regs.cmd }
        status := { s.status with faulted := true, faultCode := .noIrLen } })

/-- 44_flash_parallel.md R160: the preconditions of the six flash commands, in order. -/
def Obligations.FlashPreconditions : Prop :=
  ∀ (length : Nat) (s : State), ready length s →
    (s.flash.cmdType = none →
      ∀ i ∈ [Instr.flashEraseBlock, .flashProgramWord, .flashResetRead, .flashBypassEnter, .flashBypassExit,
          .spiChipErase],
        exec i s = .next { s with
          regs := { s.regs with result := s.regs.cmd }
          status := { s.status with faulted := true, faultCode := .noFlash } })
    ∧ (s.flash.cmdType ≠ none → s.flash.cmdType ≠ some .amd → s.flash.cmdType ≠ some .sst →
      ∀ i ∈ [Instr.flashBypassEnter, .flashBypassExit],
        exec i s = .next { s with
          regs := { s.regs with result := s.regs.cmd }
          status := { s.status with faulted := true, faultCode := .unsupported } })
    ∧ (s.flash.cmdType ≠ none → s.flash.cmdType ≠ some .spi →
        exec .spiChipErase s = .next { s with
          regs := { s.regs with result := s.regs.cmd }
          status := { s.status with faulted := true, faultCode := .unsupported } })
    ∧ (s.flash.cmdType = some .spi → s.session.spiLayout = none →
      ∀ i ∈ [Instr.flashEraseBlock, .flashProgramWord, .flashResetRead, .spiChipErase],
        exec i s = .next { s with
          regs := { s.regs with result := s.regs.cmd }
          status := { s.status with faulted := true, faultCode := .unsupported } })

/-! ## TAP commands -/

/-- 40_tap.md R95 with R94 and 30_encoding.md R73: TAP_RESET, also while FAULTED = 1 and from any tap_shadow. -/
def Obligations.TapReset : Prop :=
  ∀ s : State, s.running = none → 6 ≤ clocksAllowed s →
    exec .tapReset s = .next (ending { s.toEngine with
      cable := { driven [⟨true, false⟩, ⟨true, false⟩, ⟨true, false⟩, ⟨true, false⟩, ⟨true, false⟩, ⟨false, false⟩]
                  s.cable with shadow := some .runTestIdle }
      tap := { s.tap with irCache := none } } s)

/-- 40_tap.md R97 with R96 and 30_encoding.md R74: TAP_SETIR. A cached instruction drives no clock; else L + 6 clocks
shift the low L bits of A, least significant first, and all of A is cached. -/
def Obligations.TapSetir : Prop :=
  ∀ (length : Nat) (s : State), ready length s →
    (s.tap.irCache = some s.regs.a → exec .tapSetir s = .next s)
    ∧ (s.tap.irCache ≠ some s.regs.a → length + 6 ≤ clocksAllowed s →
        exec .tapSetir s = .next (ending { s.toEngine with
          cable := driven ([⟨true, false⟩, ⟨true, false⟩, ⟨false, false⟩, ⟨false, false⟩]
            ++ (List.range length).map (fun i => ⟨decide (i + 1 = length), s.regs.a.getLsbD i⟩)
            ++ [⟨true, false⟩, ⟨false, false⟩]) s.cable
          tap := { s.tap with irCache := some s.regs.a } } s))

/-- 40_tap.md R99-R101 with R98 and 30_encoding.md R75: the data register commands. 37 clocks shift 32 bits, least
significant first; bit i captured is the TDO bit of shift clock i; TAP_WDATA discards it. The IR length is not needed. -/
def Obligations.TapData : Prop :=
  ∀ s : State, accepting s → s.cable.shadow = some .runTestIdle → 37 ≤ clocksAllowed s →
    ∀ cableAfter : Word → Cable,
      (∀ v : Word, cableAfter v = driven ([⟨true, false⟩, ⟨false, false⟩, ⟨false, false⟩]
        ++ (List.range 32).map (fun i => ⟨decide (i = 31), v.getLsbD i⟩)
        ++ [⟨true, false⟩, ⟨false, false⟩]) s.cable) →
      ∃ captured : Word, (∀ i < 32, captured.getLsbD i = tdoAt s.cable (3 + i))
        ∧ exec .tapRwdata s = .next (ending { s.toEngine with
            cable := cableAfter s.regs.a, regs := { s.regs with result := captured } } s)
        ∧ exec .tapRdata s = .next (ending { s.toEngine with
            cable := cableAfter 0#32, regs := { s.regs with result := captured } } s)
        ∧ exec .tapWdata s = .next (ending { s.toEngine with cable := cableAfter s.regs.a } s)

/-- A row that is an EJTAG instruction code, performed by itself, is TAP_SETIR of that code; BYPASS is all ones of the
IR length (30_encoding.md R77, R78; that the row is performed so is the model's choice, assumption 4). -/
def Obligations.InstructionCodeRows : Prop :=
  ∀ (length : Nat) (s : State), ready length s → length + 6 ≤ clocksAllowed s →
    ∀ x ∈ [(Instr.irIdcode, s.cfg.ir.idcode), (.irImpcode, s.cfg.ir.impcode), (.irAddress, s.cfg.ir.address),
        (.irData, s.cfg.ir.data), (.irControl, s.cfg.ir.control), (.irAll, s.cfg.ir.all),
        (.irEjtagboot, s.cfg.ir.ejtagboot), (.irNormalboot, s.cfg.ir.normalboot),
        (.irFastdata, s.cfg.ir.fastdata), (.irBypass, BitVec.ofNat 32 (2 ^ length - 1))],
      exec x.1 s = .next (ending (afterScript length [.select x.2] s.toEngine) s)

/-- A row that is a CONTROL value, performed by itself, is the pseudo-instruction CTRL of that value
(30_encoding.md R72, R80; assumption 4): select CONTROL, exchange the value, put the word captured in RESULT. -/
def Obligations.ControlValueRows : Prop :=
  ∀ (length : Nat) (s : State), ready length s → length + 43 ≤ clocksAllowed s →
    ∀ x ∈ [(Instr.ctlDmaRdW, ctlDmaRead s.cfg.ctl .word), (.ctlDmaRdH, ctlDmaRead s.cfg.ctl .half),
        (.ctlDmaWrW, ctlDmaWrite s.cfg.ctl .word), (.ctlDmaWrH, ctlDmaWrite s.cfg.ctl .half),
        (.ctlDmaPoll, ctlDmaPoll s.cfg.ctl), (.ctlDmaEnd, ctlDmaEnd s.cfg.ctl),
        (.ctlPraccPoll, ctlPraccPoll s.cfg.ctl), (.ctlPraccDone, ctlPraccDone s.cfg.ctl),
        (.ctlHalt, ctlHalt s.cfg.ctl), (.ctlReset, ctlReset s.cfg.ctl), (.ctlZero, 0#32)],
      exec x.1 s = .next (ending
        (setResult (replyAt s.cable (if s.tap.irCache = some s.cfg.ir.control then 0 else length + 6))
          (afterScript length [.select s.cfg.ir.control, .swap x.2 anyReply] s.toEngine)) s)

/-- 30_encoding.md R80: the CONTROL values at the default bit positions of R79. -/
def Obligations.ControlValues : Prop :=
  ctlDmaRead Config.controlBits .word = 0x00068B00#32 ∧ ctlDmaRead Config.controlBits .half = 0x00068A80#32
    ∧ ctlDmaWrite Config.controlBits .word = 0x00068900#32 ∧ ctlDmaWrite Config.controlBits .half = 0x00068880#32
    ∧ ctlDmaPoll Config.controlBits = 0x00068000#32 ∧ ctlDmaEnd Config.controlBits = 0x00048000#32
    ∧ ctlPraccPoll Config.controlBits = 0x0004C000#32 ∧ ctlPraccDone Config.controlBits = 0x0000C000#32
    ∧ ctlHalt Config.controlBits = 0x0004D000#32 ∧ ctlReset Config.controlBits = 0x00110000#32
    ∧ ctlZero = 0x00000000#32

/-! ## Configuration -/

/-- 40_tap.md R102, R106-R108 with 41_memory_access.md R128 and 43_flash_probe.md R155: CFG_IRLEN, CFG_ACCESS, CFG_WINDOW
and CFG_OPTIONS, each with its fault. -/
def Obligations.SessionSettings : Prop :=
  ∀ s : State, accepting s →
    ((1 ≤ s.regs.a.toNat → s.regs.a.toNat ≤ 32 →
       exec .cfgIrlen s = .next { s with tap := { irCache := none, irLength := some s.regs.a.toNat } })
     ∧ (s.regs.a.toNat = 0 ∨ 32 < s.regs.a.toNat →
       exec .cfgIrlen s = .next { s with
         regs := { s.regs with result := s.regs.a }
         status := { s.status with faulted := true, faultCode := .badOperand } }))
    ∧ ((s.regs.a = 0#32 → exec .cfgAccess s = .next { s with
        session := { s.session with accessMode := .auto, useDma := s.session.dmaCapable } })
      ∧ (s.regs.a = 1#32 → exec .cfgAccess s = .next { s with
        session := { s.session with accessMode := .forceDma, useDma := true } })
      ∧ (s.regs.a = 2#32 → exec .cfgAccess s = .next { s with
        session := { s.session with accessMode := .forcePracc, useDma := false } })
      ∧ (2#32 < s.regs.a → exec .cfgAccess s = .next { s with
          regs := { s.regs with result := s.regs.a }
          status := { s.status with faulted := true, faultCode := .badOperand } }))
    ∧ ((s.regs.b = 0#32 → exec .cfgWindow s = .next { s with
        flash := { s.flash with
          windowOverride := some s.regs.a
          base := s.regs.a
          blockTable := if s.flash.index = none then s.flash.blockTable
            else blockTableOf s.cfg s.flash.index s.regs.a } })
      ∧ (s.regs.b = 1#32 → s.flash.index = none → exec .cfgWindow s = .next { s with
        flash := { s.flash with windowOverride := none, base := s.cfg.flashProbeBase } })
      ∧ (s.regs.b = 1#32 → s.flash.index ≠ none → exec .cfgWindow s = .next { s with
        flash := { s.flash with
          windowOverride := none
          base := flashWindowFor s.cfg s.session.idcode s.flash.size
          blockTable := blockTableOf s.cfg s.flash.index
            (flashWindowFor s.cfg s.session.idcode s.flash.size) } })
      ∧ (1#32 < s.regs.b → exec .cfgWindow s = .next { s with
          regs := { s.regs with result := s.regs.b }
          status := { s.status with faulted := true, faultCode := .badOperand } }))
    ∧ ((s.regs.a.toNat < 16 → exec .cfgOptions s = .next { s with
        options := { bypass := s.regs.a.getLsbD 0, st5 := s.regs.a.getLsbD 1, swapEndian := s.regs.a.getLsbD 2,
                     reboot := s.regs.a.getLsbD 3 } })
      ∧ (16 ≤ s.regs.a.toNat → exec .cfgOptions s = .next { s with
          regs := { s.regs with result := s.regs.a }
          status := { s.status with faulted := true, faultCode := .badOperand } }))

/-- 41_memory_access.md R126, R127: VREG_WRITE and VREG_READ. -/
def Obligations.VirtualRegisters : Prop :=
  ∀ s : State, accepting s →
    (s.regs.a = 0#32 →
      exec .vregWrite s = .next { s with vregs := { s.vregs with address := s.regs.b } }
      ∧ exec .vregRead s = .next { s with regs := { s.regs with result := s.vregs.address } })
    ∧ (s.regs.a = 1#32 →
      exec .vregWrite s = .next { s with vregs := { s.vregs with data := s.regs.b } }
      ∧ exec .vregRead s = .next { s with regs := { s.regs with result := s.vregs.data } })
    ∧ (1#32 < s.regs.a → ∀ i ∈ [Instr.vregWrite, .vregRead], exec i s = .next { s with
        regs := { s.regs with result := s.regs.a }
        status := { s.status with faulted := true, faultCode := .badOperand } })

/-! ## Detection and features -/

/-- 40_tap.md R103 with R104: DETECT, from any tap_shadow. Each ReadId is a TestReset, a SetIR(IDCODE) at its length and an
RWData(0) whose captured word is the IDCODE read. An override reads once and looks the IDCODE up; above 32 it is
F_BAD_OPERAND. A scan reads at the length of each entry in table order and ends at the first whose own read matches;
where none does, a last read is made at P_IR_LENGTH_UNKNOWN. -/
def Obligations.Detect : Prop :=
  ∀ s : State, accepting s →
    (32 < s.regs.a.toNat → exec .detect s = .next { s with
        regs := { s.regs with result := s.regs.a }
        status := { s.status with faulted := true, faultCode := .badOperand } })
    ∧ (1 ≤ s.regs.a.toNat → s.regs.a.toNat ≤ 32 → s.regs.a.toNat + 49 ≤ clocksAllowed s →
      ∀ id : Word, id = readIdReply s.cable [] s.regs.a.toNat →
        exec .detect s = .next (ending
          (detected [s.regs.a.toNat] s.regs.a.toNat id (procLookup s.cfg id) s.toEngine) s))
    ∧ (s.regs.a = 0#32 →
      ∀ (k : Nat) (d : ProcDescriptor) (before lengths : List Nat), s.cfg.procTable[k]? = some d →
        before = (tableLengths s.cfg).take k → lengths = before ++ [tableIrLength d.irLength] →
        (∀ j x, j < k → s.cfg.procTable[j]? = some x →
          readIdReply s.cable (before.take j) (tableIrLength x.irLength) ≠ x.idcode) →
        readIdReply s.cable before (tableIrLength d.irLength) = d.idcode →
        (lengths.map (· + 49)).sum ≤ clocksAllowed s →
        exec .detect s = .next (ending (detected lengths (tableIrLength d.irLength) d.idcode (some k) s.toEngine) s))
    ∧ (s.regs.a = 0#32 → 1 ≤ s.cfg.irLengthUnknown →
      ∀ lengths : List Nat, lengths = tableLengths s.cfg ++ [s.cfg.irLengthUnknown] →
        (∀ j x, s.cfg.procTable[j]? = some x →
          readIdReply s.cable ((tableLengths s.cfg).take j) (tableIrLength x.irLength) ≠ x.idcode) →
        (lengths.map (· + 49)).sum ≤ clocksAllowed s →
        exec .detect s = .next (ending (detected lengths s.cfg.irLengthUnknown
          (readIdReply s.cable (tableLengths s.cfg) s.cfg.irLengthUnknown) none s.toEngine) s))

/-- 40_tap.md R104, 43_flash_probe.md R152: Lookup and FlashLookup give the least index of a match over all bits, or
NONE. -/
def Obligations.Lookups : Prop :=
  ∀ p : Params,
    (∀ id : Word,
      (∀ k, procLookup p id = some k ↔
        (∃ d, p.procTable[k]? = some d ∧ d.idcode = id) ∧ ∀ j d, j < k → p.procTable[j]? = some d → d.idcode ≠ id)
      ∧ (procLookup p id = none ↔ ∀ d ∈ p.procTable, d.idcode ≠ id))
    ∧ ∀ vendor device : Half,
      (∀ k, flashLookup p vendor device = some k ↔
        (∃ d, p.flashTable[k]? = some d ∧ d.vendor = vendor ∧ d.device = device)
          ∧ ∀ j d, j < k → p.flashTable[j]? = some d → ¬(d.vendor = vendor ∧ d.device = device))
      ∧ (flashLookup p vendor device = none ↔ ∀ d ∈ p.flashTable, ¬(d.vendor = vendor ∧ d.device = device))

/-- 40_tap.md R105 with 41_memory_access.md R128: FEATURES. -/
def Obligations.Features : Prop :=
  ∀ (length : Nat) (s : State) (v : Word), ready length s →
    follows length [.select s.cfg.ir.impcode, .swap 0#32 (exactly v)] s →
    exec .features s = .next (ending
      { afterScript length [.select s.cfg.ir.impcode, .swap 0#32 (exactly v)] s.toEngine with
        regs := { s.regs with result := v }
        session := { s.session with
          impcode := v
          ejtagVersion := v.extractLsb' s.cfg.imp.version 3
          dmaCapable := !v.getLsbD s.cfg.imp.nodma
          useDma := useDmaOf s.session.accessMode (!v.getLsbD s.cfg.imp.nodma) } } s)

/-! ## Target control -/

/-- 41_memory_access.md R129, R130: PROC_RESET, and PROC_HALT with `c` the CONTROL value its second exchange reads. -/
def Obligations.ResetAndHalt : Prop :=
  ∀ (length : Nat) (s : State) (script : List Exchange), ready length s →
    (script = [.select s.cfg.ir.control, .swap (ctlReset s.cfg.ctl) anyReply, .swap 0#32 anyReply] →
      follows length script s →
      exec .procReset s = .next (ending
        { afterScript length script s.toEngine with status := { s.status with inDebug := false } } s))
    ∧ (∀ c, script = [.select s.cfg.ir.control, .swap (ctlHalt s.cfg.ctl) anyReply,
        .swap (ctlPraccPoll s.cfg.ctl) (exactly c)] →
      follows length script s →
      exec .procHalt s = .next (ending
        { afterScript length script s.toEngine with
          regs := { s.regs with result := c }
          status := { s.status with inDebug := c.getLsbD s.cfg.ctl.dm } } s))

/-! ## DMA accesses -/

/-- 41_memory_access.md R114, R117, R118 and, with the DMA strategy selected, R109-R111: a read whose first attempts,
fewer than 16, end with DERR = 1 and whose next succeeds returns that attempt's datum; a halfword is the lane of
20_memory.md R52. Every DSTRT poll may find DSTRT = 1 for as many turns as P_POLL_TIMEOUT allows (60_exceptions.md
R193). The bus record is the model's own (assumption 15). -/
def Obligations.DmaRead : Prop :=
  ∀ (length : Nat) (s : State) (failed : List (Nat × Word)) (turns : Nat) (d : Word) (width : Width)
      (script : List Exchange),
    ready length s → failed.length < 16 → (∀ x ∈ failed, patient s.cfg x.1) → patient s.cfg turns →
    script = failingScript s.toEngine (.read width s.regs.a) failed
      ++ attemptScript s.cfg (skipsDstrtPoll s.cfg s.session) turns false (.read width s.regs.a, d) →
    follows length script s →
    ∀ i, (i = (match width with | .word => Instr.dmaRead32 | .half => .dmaRead16)
        ∨ (s.session.useDma = true ∧ i = (match width with | .word => Instr.memRead32 | .half => .memRead16))) →
      exec i s = .next (ending { afterScript length script s.toEngine with
        regs := { s.regs with result := readDatum s.cfg width s.regs.a d }
        bus := s.bus ++ [.read width s.regs.a] } s)

/-- 41_memory_access.md R114, R119, R120 and, with the DMA strategy selected, R109, R112, R113: a write that succeeds
after fewer than 16 failed attempts, each DSTRT poll taking as many turns as P_POLL_TIMEOUT allows. A halfword is
B[15:0] in both lanes (20_memory.md R53). The bus record is the model's own (assumption 15). -/
def Obligations.DmaWrite : Prop :=
  ∀ (length : Nat) (s : State) (failed : List (Nat × Word)) (turns : Nat) (d v : Word) (width : Width)
      (script : List Exchange),
    ready length s → failed.length < 16 → (∀ x ∈ failed, patient s.cfg x.1) → patient s.cfg turns →
    v = (match width with | .word => s.regs.b | .half => hw16 (lowHalf s.regs.b)) →
    script = failingScript s.toEngine (.write width s.regs.a v) failed
      ++ attemptScript s.cfg (skipsDstrtPoll s.cfg s.session) turns false (.write width s.regs.a v, d) →
    follows length script s →
    ∀ i, (i = (match width with | .word => Instr.dmaWrite32 | .half => .dmaWrite16)
        ∨ (s.session.useDma = true ∧ i = (match width with | .word => Instr.memWrite32 | .half => .memWrite16))) →
      exec i s = .next (ending { afterScript length script s.toEngine with
        bus := s.bus ++ [.write width s.regs.a v] } s)

/-- 41_memory_access.md R115: when all 16 attempts end with DERR = 1, DMA_ERR is set, DMA_FAILS counts up and saturates
at 0xFF, no fault is raised, and a read returns the 16th datum. -/
def Obligations.DmaExhausted : Prop :=
  ∀ (length : Nat) (s : State) (ds : List (Nat × Word)) (last : Nat × Word) (st : Status), ready length s →
    ds.length = 16 → ds.getLast? = some last → (∀ x ∈ ds, patient s.cfg x.1) →
    st = { s.status with
      dmaErr := true
      dmaFails := BitVec.ofNat 8 (min (s.status.dmaFails.toNat + 1) 0xFF) } →
    (∀ width, follows length (failingScript s.toEngine (.read width s.regs.a) ds) s →
      exec (match width with | .word => Instr.dmaRead32 | .half => .dmaRead16) s = .next (ending
        { afterScript length (failingScript s.toEngine (.read width s.regs.a) ds) s.toEngine with
          regs := { s.regs with result := readDatum s.cfg width s.regs.a last.2 }
          status := st
          bus := s.bus ++ [.read width s.regs.a] } s))
    ∧ (∀ width, follows length (failingScript s.toEngine (.write width s.regs.a (busValue width s.regs.b)) ds) s →
      exec (match width with | .word => Instr.dmaWrite32 | .half => .dmaWrite16) s = .next (ending
        { afterScript length (failingScript s.toEngine (.write width s.regs.a (busValue width s.regs.b)) ds)
            s.toEngine with
          status := st
          bus := s.bus ++ [.write width s.regs.a (busValue width s.regs.b)] } s))

/-- 20_memory.md R52: the lane of a halfword DMA read; R53: a halfword write is in both lanes. -/
def Obligations.HalfwordLanes : Prop :=
  ∀ (addr d : Word) (h : Half),
    (addr.getLsbD 1 = true → lane .little addr d = d.extractLsb' 16 16 ∧ lane .big addr d = d.extractLsb' 0 16)
    ∧ (addr.getLsbD 1 = false → lane .little addr d = d.extractLsb' 0 16 ∧ lane .big addr d = d.extractLsb' 16 16)
    ∧ (hw16 h).extractLsb' 0 16 = h ∧ (hw16 h).extractLsb' 16 16 = h
    ∧ ∀ endian, lane endian addr (hw16 h) = h

/-! ## Polls that go on (60_exceptions.md R193, R194) -/

/-- 60_exceptions.md R193, 41_memory_access.md R114, 42_debug_executor.md R135, R142: with P_POLL_TIMEOUT = n, F_TIMEOUT after
n turns that are not ready. The DSTRT poll, in any attempt, gives the DMA address; the pending poll, after any run of
accesses, P_DEBUG_VECTOR; n accesses served without an end, the last address. What was done before stays. -/
def Obligations.PollTimeouts : Prop :=
  ∀ (length : Nat) (s : State) (n : Nat), ready length s → pollBound s.cfg = some n →
    (skipsDstrtPoll s.cfg s.session = false →
      ∀ x ∈ [(Instr.dmaRead32, Instr.memRead32, Access.read .word s.regs.a),
          (.dmaRead16, .memRead16, .read .half s.regs.a),
          (.dmaWrite32, .memWrite32, .write .word s.regs.a s.regs.b),
          (.dmaWrite16, .memWrite16, .write .half s.regs.a (hw16 (lowHalf s.regs.b)))],
      ∀ (i : Instr) (failed : List (Nat × Word)) (script : List Exchange),
        (i = x.1 ∨ (s.session.useDma = true ∧ i = x.2.1)) → failed.length < 16 → (∀ y ∈ failed, patient s.cfg y.1) →
        script = failingScript s.toEngine x.2.2 failed ++ startScript s.cfg x.2.2
          ++ List.replicate n (dstrtTurn s.cfg true) →
        follows length script s →
        exec i s = .next (ending (faultEntry .timeout s.regs.a
          { afterScript length script s.toEngine with bus := s.bus ++ [x.2.2] }) s))
    ∧ (∀ (m : ModuleId) (words : List Word) (v : VirtualRegs) (run : List Service) (script : List Exchange),
        moduleIdOf s.regs.a = some m → m ≠ .returnFromDebug → words = moduleWords s.cfg m → words ≠ [] →
        v = { s.vregs with vectorReads := 0 } → runLegal s.cfg words v run → vectorFetches s.cfg run ≤ 1 →
        (run.length < n → script = runScript s.cfg words v run ++ waitingScript s.cfg n → follows length script s →
          exec .execModule s = .next (ending (faultEntry .timeout s.cfg.debugVector
            { afterScript length script s.toEngine with vregs := runRegs s.cfg words v run }) s))
        ∧ (∀ x, run.length = n → run.getLast? = some x → script = runScript s.cfg words v run →
          follows length script s →
          exec .execModule s = .next (ending (faultEntry .timeout (serviceAddress x)
            { afterScript length script s.toEngine with vregs := runRegs s.cfg words v run }) s)))

/-- 60_exceptions.md R194 with R193: with P_POLL_TIMEOUT = none a poll that is never ready leaves the command busy, in the
first step and in every later one: each drives one step's clocks further into the poll, and the state is that of all
the clocks allowed so far. Shown of the DSTRT poll and the pending poll (the cut into steps: assumption 1). -/
def Obligations.PollStaysBusy : Prop :=
  ∀ (length : Nat) (s : State) (i : Instr) (n budget driving : Nat) (script : List Exchange) (turn : Word)
      (engine last : Engine),
    ready length s → pollBound s.cfg = none →
    ((∃ x ∈ [(Instr.dmaRead32, Access.read .word s.regs.a), (.dmaRead16, .read .half s.regs.a),
          (.dmaWrite32, .write .word s.regs.a s.regs.b),
          (.dmaWrite16, .write .half s.regs.a (hw16 (lowHalf s.regs.b)))],
        i = x.1 ∧ skipsDstrtPoll s.cfg s.session = false
        ∧ script = startScript s.cfg x.2 ++ List.replicate n (dstrtTurn s.cfg true) ∧ turn = ctlDmaPoll s.cfg.ctl
        ∧ engine = { s.toEngine with bus := s.bus ++ [x.2] })
      ∨ (∃ m, moduleIdOf s.regs.a = some m ∧ moduleWords s.cfg m ≠ [] ∧ i = .execModule
        ∧ script = waitingScript s.cfg n ∧ turn = ctlPraccPoll s.cfg.ctl
        ∧ engine = { s.toEngine with vregs := { s.vregs with vectorReads := 0 } })) →
    answered length s.cable 0 s.tap.irCache script = true →
    driving = (scriptClocks length s.tap.irCache script).length → driving ≤ budget → budget < driving + 37 →
    last = { afterScript length script engine with
      cable := driven ((drSequence turn).take (budget - driving)) (afterScript length script engine).cable } →
    (budget = clocksAllowed s → exec i s = .next { s with
      toEngine := last, running := some { instr := i, start := s.toEngine, budget := budget } })
    ∧ (∀ (e : Engine) (k : Nat), e.cfg = s.cfg → budget = k + clocksAllowed s →
      exec i { s with toEngine := e, running := some { instr := i, start := s.toEngine, budget := k } }
        = .next { s with
          toEngine := last, running := some { instr := i, start := s.toEngine, budget := budget } })

/-! ## PrAcc accesses and the executor -/

/-- 41_memory_access.md R121-R123 and, with the PrAcc strategy selected, R109-R111, over 42_debug_executor.md R134-R141: a
PrAcc read. The ORed address is put in address_register and the read module runs, whatever accesses the target makes,
until the target is back at the vector. RESULT is what data_register then holds, or its low half zero-extended: the last
word stored at P_VREG_DATA, or the old one if nothing was. -/
def Obligations.PraccRead : Prop :=
  ∀ (length : Nat) (s : State) (width : Width) (words : List Word) (v vregs : VirtualRegs) (run : List Service)
      (waits : Nat) (c : Word) (script : List Exchange), ready length s →
    words = (match width with | .word => s.cfg.modules.readWord | .half => s.cfg.modules.readHalf) →
    v = { s.vregs with address := s.regs.a ||| s.cfg.kseg1Bit, vectorReads := 0 } →
    endsAtVector length s words v run waits c script → vregs = runRegs s.cfg words v run →
    ∀ i, (i = (match width with | .word => Instr.praccRead32 | .half => .praccRead16)
        ∨ (s.session.useDma = false ∧ i = (match width with | .word => Instr.memRead32 | .half => .memRead16))) →
      exec i s = .next (ending { afterScript length script s.toEngine with
        regs := { s.regs with
          result := (match width with | .word => vregs.data | .half => 0#16 ++ vregs.data.extractLsb' 0 16) }
        vregs := { vregs with vectorReads := 2 }
        bus := s.bus ++ [.read width s.regs.a] } s)

/-- 41_memory_access.md R121, R124, R125 and, with the PrAcc strategy selected, R109, R112, R113, over 42_debug_executor.md
R134-R141: a PrAcc write puts the ORed address and the value in the virtual registers, and the write module runs,
whatever accesses the target makes, until the target is back at the vector. -/
def Obligations.PraccWrite : Prop :=
  ∀ (length : Nat) (s : State) (width : Width) (words : List Word) (v : VirtualRegs) (run : List Service)
      (waits : Nat) (c : Word) (script : List Exchange), ready length s →
    words = (match width with | .word => s.cfg.modules.writeWord | .half => s.cfg.modules.writeHalf) →
    v = { s.vregs with
      address := s.regs.a ||| s.cfg.kseg1Bit, data := busValue width s.regs.b, vectorReads := 0 } →
    endsAtVector length s words v run waits c script →
    ∀ i, (i = (match width with | .word => Instr.praccWrite32 | .half => .praccWrite16)
        ∨ (s.session.useDma = false ∧ i = (match width with | .word => Instr.memWrite32 | .half => .memWrite16))) →
      exec i s = .next (ending { afterScript length script s.toEngine with
        vregs := { runRegs s.cfg words v run with vectorReads := 2 }
        bus := s.bus ++ [.write width s.regs.a (busValue width s.regs.b)] } s)

/-- 42_debug_executor.md R134-R141: EXEC_MODULE of a module that ends at vector re-entry. Between the vector read that starts
it and the one that ends it the target may make any accesses: fetches of any module word, reads of the virtual
registers, reads elsewhere below the vector (answered with exec_data), writes anywhere (only the two virtual registers
keep them), each after any number of pending polls that the bounds allow. The last vector read is left pending. -/
def Obligations.ExecModuleVector : Prop :=
  ∀ (length : Nat) (s : State) (m : ModuleId) (words : List Word) (v : VirtualRegs) (run : List Service)
      (waits : Nat) (c : Word) (script : List Exchange),
    ready length s → moduleIdOf s.regs.a = some m → m ≠ .returnFromDebug → words = moduleWords s.cfg m →
    v = { s.vregs with vectorReads := 0 } → endsAtVector length s words v run waits c script →
    exec .execModule s = .next (ending { afterScript length script s.toEngine with
      vregs := { runRegs s.cfg words v run with vectorReads := 2 } } s)

/-- 42_debug_executor.md R134, R138-R141, 41_memory_access.md R131: the return-from-debug module ends when its last word has
been supplied and cleared, after any run of accesses that does not fetch that word; EXEC_MODULE 4 runs it, and
PROC_RESUME also clears IN_DEBUG. The run may read the vector any number of times. That every read is counted, past 2
too, is R134 and R138 followed over the range 0..2 of 10_state.md R40: the model's reading (assumption 8). -/
def Obligations.LastWordEnds : Prop :=
  ∀ (length : Nat) (s : State) (words : List Word) (v : VirtualRegs) (run : List Service) (waits : Nat) (c a : Word)
      (script : List Exchange), ready length s →
    words = s.cfg.modules.returnFromDebug → words ≠ [] → s.cfg.debugVector ≤ a →
    moduleOffset s.cfg a = words.length - 1 → v = { s.vregs with vectorReads := 0 } →
    runLegal s.cfg words v (run ++ [.fetch waits c a]) →
    (∀ n b x, Service.fetch n b x ∈ run → s.cfg.debugVector ≤ x → moduleOffset s.cfg x ≠ words.length - 1) →
    patient s.cfg run.length →
    script = runScript s.cfg words v (run ++ [.fetch waits c a]) → follows length script s →
    ∀ vregs, vregs = runRegs s.cfg words v (run ++ [.fetch waits c a]) →
      exec .procResume s = .next (ending { afterScript length script s.toEngine with
        vregs := vregs, status := { s.status with inDebug := false } } s)
      ∧ (s.regs.a = 4#32 →
        exec .execModule s = .next (ending { afterScript length script s.toEngine with vregs := vregs } s))

/-- 41_memory_access.md R132, R133, over 42_debug_executor.md R134-R141: DEPC_READ runs its module, whatever accesses the
target makes, and returns what data_register then holds; DEPC_WRITE puts A in data_register before its module runs. -/
def Obligations.DepcAccess : Prop :=
  ∀ (length : Nat) (s : State) (words : List Word) (v vregs : VirtualRegs) (run : List Service) (waits : Nat) (c : Word)
      (script : List Exchange), ready length s →
    endsAtVector length s words v run waits c script → vregs = runRegs s.cfg words v run →
    (words = s.cfg.modules.readDepc → v = { s.vregs with vectorReads := 0 } →
      exec .depcRead s = .next (ending { afterScript length script s.toEngine with
        regs := { s.regs with result := vregs.data }
        vregs := { vregs with vectorReads := 2 } } s))
    ∧ (words = s.cfg.modules.writeDepc → v = { s.vregs with data := s.regs.a, vectorReads := 0 } →
      exec .depcWrite s = .next (ending { afterScript length script s.toEngine with
        vregs := { vregs with vectorReads := 2 } } s))

/-- 42_debug_executor.md R134, R139, 60_exceptions.md R188-R190: EXEC_MODULE faults on a module id above 6, on an empty module,
and on a fetch out of the module's range, after any accesses, which leaves the fetch pending. Every command that is sure
to run an empty module takes F_NO_MODULE, with the number of the first such module in order of use as info, before it
changes any state or drives any clock (assumption 9): the PRACC, MEM, DEPC, flash and area commands, PROC_RESUME,
SESSION_END, which keeps an earlier fault code, and FLASH_PROBE, whose SPI trial is sure to run only if there is a
layout and no table entry for an earlier trial to find (an SPI trial reached otherwise is not spoken of here). In the
clause of the fetch, that module 4 counts every vector read, past the range 0..2 of 10_state.md R40 too, is the model's
reading (assumption 8). -/
def Obligations.ExecutorFaults : Prop :=
  (∀ (length : Nat) (s : State), ready length s →
    (6 < s.regs.a.toNat → exec .execModule s = .next (ending (faultEntry .badOperand s.regs.a s.toEngine) s))
    ∧ (∀ m, moduleIdOf s.regs.a = some m → needsModules s .execModule [(moduleWords s.cfg m, s.regs.a)])
    ∧ (∀ m words v run waits c a script, moduleIdOf s.regs.a = some m → words = moduleWords s.cfg m → words ≠ [] →
      v = { s.vregs with vectorReads := 0 } → runLegal s.cfg words v run →
      (m ≠ .returnFromDebug → vectorFetches s.cfg run ≤ 1) →
      (m = .returnFromDebug → ∀ n b x, Service.fetch n b x ∈ run → s.cfg.debugVector ≤ x →
        moduleOffset s.cfg x ≠ words.length - 1) →
      patient s.cfg run.length → patient s.cfg waits → showsRead s.cfg c →
      s.cfg.debugVector ≤ a → words.length ≤ moduleOffset s.cfg a →
      script = runScript s.cfg words v run ++ waitingScript s.cfg waits ++ pendingScript s.cfg c a →
      follows length script s →
      exec .execModule s = .next (ending (faultEntry .moduleRange a { afterScript length script s.toEngine with
        vregs := runRegs s.cfg words v run }) s))
    ∧ ∀ readWord writeWord readHalf writeHalf : List Word × Word,
      readWord = (s.cfg.modules.readWord, 0#32) → writeWord = (s.cfg.modules.writeWord, 1#32) →
      readHalf = (s.cfg.modules.readHalf, 2#32) → writeHalf = (s.cfg.modules.writeHalf, 3#32) →
      (∀ x ∈ [(Instr.praccRead32, readWord), (.praccWrite32, writeWord), (.praccRead16, readHalf),
          (.praccWrite16, writeHalf), (.procResume, (s.cfg.modules.returnFromDebug, 4#32)),
          (.depcRead, (s.cfg.modules.readDepc, 5#32)), (.depcWrite, (s.cfg.modules.writeDepc, 6#32))],
        needsModules s x.1 [x.2])
      ∧ (s.session.useDma = false →
        (∀ x ∈ [(Instr.memRead32, readWord), (.memWrite32, writeWord), (.memRead16, readHalf),
            (.memWrite16, writeHalf)], needsModules s x.1 [x.2])
        ∧ needsModules s .flashProbe ([writeHalf, readHalf]
          ++ if s.session.spiLayout ≠ none ∧ s.cfg.flashTable = [] then [writeWord, readWord] else [])
        ∧ (amdStyle s.toEngine ∨ bscStyle s.toEngine →
          (∀ i ∈ [Instr.flashEraseBlock, .flashProgramWord], needsModules s i [writeHalf, readHalf])
          ∧ needsModules s .flashResetRead [writeHalf])
        ∧ (amdStyle s.toEngine → needsModules s (if s.flash.bypassActive = true then .flashBypassExit else .flashBypassEnter)
          [writeHalf])
        ∧ (spiStyle s.toEngine →
          ∀ i ∈ [Instr.flashEraseBlock, .flashProgramWord, .spiChipErase], needsModules s i [writeWord, readWord])
        ∧ (s.area.valid = true → s.flash.size ≠ 0#32 → s.area.length ≠ 0#32 →
          needsModules s .areaBackup [readWord]
          ∧ ∀ i, (i = .areaProgram ∨ (i = .areaErase ∧ ∃ a ∈ s.flash.blockTable,
              s.area.start.toNat ≤ a.toNat ∧ a.toNat < s.area.start.toNat + s.area.length.toNat)) →
            (amdStyle s.toEngine ∨ bscStyle s.toEngine → needsModules s i [writeHalf, readHalf])
            ∧ (spiStyle s.toEngine → needsModules s i [writeWord, readWord]))))
    ∧ ∀ (length : Nat) (s : State), s.running = none → s.cable.shadow = some .runTestIdle →
      s.tap.irLength = some length → s.session.useDma = false → (amdStyle s.toEngine ∨ bscStyle s.toEngine) →
      s.cfg.modules.writeHalf = [] →
      exec .sessionEnd s = .next { s with
        regs := { s.regs with result := 3#32 }
        status := { s.status with
          faulted := true, faultCode := if s.status.faulted = true then s.status.faultCode else .noModule } }

/-! ## Flash identification and areas -/

/-- 43_flash_probe.md R147-R154, R157, 45_flash_spi.md R176: FLASH_PROBE, through DMA, of a part that the n-th trial finds and
no earlier one does: the trials up to it are run in their fixed order (AMD, SST, BSC/SCS, and with a layout SPI) and
no more, and the descriptor found is selected. The two colliding pairs are resolved by two sub-ID reads; the SPI
trial takes its IDs from RDID on a controller that is not busy. -/
def Obligations.ProbeFound : Prop :=
  ∀ (length : Nat) (s : State) (amd sst bsc : IdReplies) (free rdid base b : Word)
      (trials : List ((Half × Half) × List (Access × Word))) (found : (Half × Half) × List (Access × Word))
      (n k : Nat) (x : FlashDescriptor) (items : List (Access × Word)),
    ready length s →
    base = (match s.flash.windowOverride with | some o => o | none => s.cfg.flashProbeBase) →
    free.getLsbD (sessionLayout s.toEngine).busyBit = false →
    trials = probeTrials s.toEngine base amd sst bsc free rdid → trials[n]? = some found →
    (∀ y ∈ trials.take n, flashLookup s.cfg y.1.1 y.1.2 = none) →
    flashLookup s.cfg found.1.1 found.1.2 = some k → s.cfg.flashTable[k]? = some x →
    items = (trials.take (n + 1)).flatMap Prod.snd → serves length items s →
    b = (match s.flash.windowOverride with
      | some o => o
      | none => flashWindowFor s.cfg s.session.idcode x.size) →
    exec .flashProbe s = .next (ending { afterBus length items s.toEngine with
      regs := { s.regs with result := found.1.2 ++ found.1.1 }
      status := { s.status with unknownFlash := false }
      flash := { s.flash with
        base := b, cmdType := some x.kind, index := some k, size := x.size, vendorId := found.1.1,
        deviceId := found.1.2, blockTable := walkRegions x.regions.list b }
      area := { s.area with valid := false } } s)

/-- 43_flash_probe.md R147-R154, 45_flash_spi.md R176: FLASH_PROBE, through DMA, of a part that no trial finds: every trial is
run, the SPI trial only with a layout, the IDs are those of the last, and the flash is unknown. -/
def Obligations.ProbeUnknown : Prop :=
  ∀ (length : Nat) (s : State) (amd sst bsc : IdReplies) (free rdid base : Word)
      (trials : List ((Half × Half) × List (Access × Word))) (last : (Half × Half) × List (Access × Word))
      (items : List (Access × Word)), ready length s →
    base = (match s.flash.windowOverride with | some o => o | none => s.cfg.flashProbeBase) →
    free.getLsbD (sessionLayout s.toEngine).busyBit = false →
    trials = probeTrials s.toEngine base amd sst bsc free rdid → trials.getLast? = some last →
    (∀ y ∈ trials, flashLookup s.cfg y.1.1 y.1.2 = none) →
    items = trials.flatMap Prod.snd → serves length items s →
    exec .flashProbe s = .next (ending { afterBus length items s.toEngine with
      regs := { s.regs with result := last.1.2 ++ last.1.1 }
      status := { s.status with unknownFlash := true }
      flash := { s.flash with
        base := base, cmdType := none, index := none, size := 0#32, vendorId := last.1.1, deviceId := last.1.2,
        blockTable := [] }
      area := { s.area with valid := false } } s)

/-- 43_flash_probe.md R157 with R155, R156: FLASH_FORCE. -/
def Obligations.FlashForce : Prop :=
  ∀ s : State, accepting s →
    (∀ x b, s.cfg.flashTable[s.regs.a.toNat]? = some x →
      b = (match s.flash.windowOverride with
        | some o => o
        | none => flashWindowFor s.cfg s.session.idcode x.size) →
      exec .flashForce s = .next { s with
        regs := { s.regs with result := (match x.kind with
          | .amd => 1#32 | .sst => 2#32 | .bsc => 3#32 | .scs => 4#32 | .spi => 5#32) }
        status := { s.status with unknownFlash := false }
        flash := { s.flash with
          base := b, cmdType := some x.kind, index := some s.regs.a.toNat, size := x.size, vendorId := x.vendor,
          deviceId := x.device, blockTable := walkRegions x.regions.list b }
        area := { s.area with valid := false } })
    ∧ (s.cfg.flashTable.length ≤ s.regs.a.toNat → exec .flashForce s = .next { s with
        regs := { s.regs with result := s.regs.a }
        status := { s.status with faulted := true, faultCode := .badOperand } })

/-- 43_flash_probe.md R156: the block table of a region list has the sum of the counts as its length; a first region that
is not empty starts it at the base, and the regions after it are walked from the end of the first. -/
def Obligations.BlockTable : Prop :=
  (∀ (rs : List Region) (base : Word), (walkRegions rs base).length = (rs.map fun r => r.count.toNat).sum)
    ∧ ∀ (r : Region) (rs : List Region) (base : Word) (n : Nat),
      (n < r.count.toNat → (walkRegions (r :: rs) base)[n]? = some (base + BitVec.ofNat 32 n * r.size))
      ∧ (walkRegions (r :: rs) base)[r.count.toNat + n]?
          = (walkRegions rs (base + r.count * r.size))[n]?

/-- 43_flash_probe.md R158, R159: CFG_CUSTOM_AREA and SELECT_AREA. -/
def Obligations.AreaSelection : Prop :=
  ∀ s : State, accepting s →
    exec .cfgCustomArea s = .next { s with
      area := { s.area with customStart := some s.regs.a, customLength := some s.regs.b } }
    ∧ (∀ w start length, s.regs.a = 0xFFFFFFFF#32 → s.flash.windowOverride = some w →
      s.area.customStart = some start → s.area.customLength = some length →
      exec .selectArea s = .next { s with
        regs := { s.regs with result := length }
        area := { s.area with valid := true, start := start, length := length } })
    ∧ (s.regs.a = 0xFFFFFFFF#32 →
      (s.flash.windowOverride = none ∨ s.area.customStart = none ∨ s.area.customLength = none) →
      exec .selectArea s = .next { s with
        regs := { s.regs with result := s.regs.a }
        status := { s.status with faulted := true, faultCode := .badArea } })
    ∧ (∀ name d, s.regs.a ≠ 0xFFFFFFFF#32 → s.cfg.areaNames[s.regs.a.toNat]? = some name →
      s.cfg.areaTable.find? (fun e => decide (e.capacity = s.flash.size ∧ e.name = name)) = some d →
      exec .selectArea s = .next { s with
        regs := { s.regs with result := d.length }
        area := { s.area with valid := true, start := d.start, length := d.length } })
    ∧ (∀ name, s.regs.a ≠ 0xFFFFFFFF#32 → s.cfg.areaNames[s.regs.a.toNat]? = some name →
      s.cfg.areaTable.find? (fun e => decide (e.capacity = s.flash.size ∧ e.name = name)) = none →
      exec .selectArea s = .next { s with
        regs := { s.regs with result := 0#32 }
        area := { s.area with valid := true, start := 0#32, length := 0#32 } })
    ∧ (s.regs.a ≠ 0xFFFFFFFF#32 → s.cfg.areaNames.length ≤ s.regs.a.toNat →
      exec .selectArea s = .next { s with
        regs := { s.regs with result := s.regs.a }
        status := { s.status with faulted := true, faultCode := .badArea } })

/-! ## Parallel flash -/

/-- A row that is a NOR command cycle, performed by itself, is one halfword write of its datum at its address
(30_encoding.md R83-R86, 20_memory.md R53; assumption 4): here through the DMA strategy. -/
def Obligations.NorCycleRows : Prop :=
  ∀ (length : Nat) (s : State), ready length s →
    ∀ x ∈ [(Instr.amdUnlock1, s.flash.base + (s.cfg.amd.unlock1Offset <<< 1), s.cfg.amd.unlock1),
        (.amdUnlock2, s.flash.base + (s.cfg.amd.unlock2Offset <<< 1), s.cfg.amd.unlock2),
        (.amdAutoselect, s.flash.base + (s.cfg.amd.unlock1Offset <<< 1), s.cfg.amd.autoselect),
        (.amdEraseSetup, s.flash.base + (s.cfg.amd.unlock1Offset <<< 1), s.cfg.amd.eraseSetup),
        (.amdSectorErase, s.regs.a, s.cfg.amd.sectorErase),
        (.amdProgram, s.flash.base + (s.cfg.amd.unlock1Offset <<< 1), s.cfg.amd.program),
        (.amdBypassEnter, s.flash.base + (s.cfg.amd.unlock1Offset <<< 1), s.cfg.amd.bypassEnter),
        (.amdBypassProgram, s.flash.base, s.cfg.amd.bypassProgram),
        (.amdBypassExit1, s.flash.base, s.cfg.amd.bypassExit1),
        (.amdBypassExit2, s.flash.base, s.cfg.amd.bypassExit2),
        (.amdReset, s.flash.base, s.cfg.amd.reset),
        (.sstUnlock1, s.flash.base + (s.cfg.sst.unlock1Offset <<< 1), s.cfg.sst.unlock1),
        (.sstUnlock2, s.flash.base + (s.cfg.sst.unlock2Offset <<< 1), s.cfg.sst.unlock2),
        (.sstAutoselect, s.flash.base + (s.cfg.sst.unlock1Offset <<< 1), s.cfg.sst.autoselect),
        (.sstEraseSetup, s.flash.base + (s.cfg.sst.unlock1Offset <<< 1), s.cfg.sst.eraseSetup),
        (.sstSectorErase, s.regs.a, s.cfg.sst.sectorErase),
        (.sstProgram, s.flash.base + (s.cfg.sst.unlock1Offset <<< 1), s.cfg.sst.program),
        (.sstReset, s.flash.base, s.cfg.sst.reset),
        (.bscClearStatus, s.regs.a, s.cfg.bsc.clearStatus), (.bscUnlockSetup, s.regs.a, s.cfg.bsc.unlockSetup),
        (.bscConfirm, s.regs.a, s.cfg.bsc.confirm), (.bscEraseSetup, s.regs.a, s.cfg.bsc.eraseSetup),
        (.bscReadStatus, s.regs.a, s.cfg.bsc.readStatus), (.bscProgramSetup, s.regs.a, s.cfg.bsc.programSetup),
        (.bscReadId, s.flash.base, s.cfg.bsc.readId), (.bscReadArray, s.flash.base, s.cfg.bsc.readArray)],
      serves length [cycle x.2.1 x.2.2] s →
      exec x.1 s = .next (ending (afterBus length [cycle x.2.1 x.2.2] s.toEngine) s)

/-- 44_flash_parallel.md R161-R164, R168, 45_flash_spi.md R174: FLASH_ERASE_BLOCK of every family, through DMA: bypass mode
is left first on an AMD-style part, then the accesses of `eraseItems` are issued and nothing else. -/
def Obligations.FlashErase : Prop :=
  ∀ (length : Nat) (s : State) (r1 r2 free : Word) (items : List (Access × Word)), ready length s →
    eraseReady s.toEngine s.regs.a r1 r2 free →
    (amdStyle s.toEngine → items = exitItems s.toEngine ++ eraseItems s.toEngine s.regs.a r1 r2 free →
      serves length items s →
      exec .flashEraseBlock s = .next (ending { afterBus length items s.toEngine with
        flash := { s.flash with bypassActive := false } } s))
    ∧ ((bscStyle s.toEngine ∨ spiStyle s.toEngine) → items = eraseItems s.toEngine s.regs.a r1 r2 free →
      serves length items s →
      exec .flashEraseBlock s = .next (ending (afterBus length items s.toEngine) s))

/-- 44_flash_parallel.md R165-R167, 45_flash_spi.md R175: FLASH_PROGRAM_WORD of every family, through DMA: with opt_bypass
an AMD-style part enters bypass mode first; then the accesses of `programItems` are issued and nothing else. -/
def Obligations.FlashProgram : Prop :=
  ∀ (length : Nat) (s : State) (r1 r2 free : Word) (bypass : Bool) (items : List (Access × Word)), ready length s →
    programReady s.toEngine s.regs.a s.regs.b r1 r2 free → bypass = programsInBypass s.toEngine →
    (amdStyle s.toEngine →
      items = (if s.options.bypass = true then enterItems s.toEngine else [])
        ++ programItems s.toEngine bypass s.regs.a s.regs.b r1 r2 free →
      serves length items s →
      exec .flashProgramWord s = .next (ending { afterBus length items s.toEngine with
        flash := { s.flash with bypassActive := bypass } } s))
    ∧ ((bscStyle s.toEngine ∨ spiStyle s.toEngine) →
      items = programItems s.toEngine bypass s.regs.a s.regs.b r1 r2 free → serves length items s →
      exec .flashProgramWord s = .next (ending (afterBus length items s.toEngine) s))

/-- 44_flash_parallel.md R168-R170, 45_flash_spi.md R178: reset-to-read, bypass entry and bypass exit, through DMA. The
cycles are those of the part's family; each command ends with the bypass bit its rule gives. -/
def Obligations.ReadModeAndBypass : Prop :=
  ∀ (length : Nat) (s : State) (items : List (Access × Word)), ready length s →
    (amdStyle s.toEngine →
      (items = exitItems s.toEngine ++ resetItems s.toEngine → serves length items s →
        exec .flashResetRead s = .next (ending { afterBus length items s.toEngine with
          flash := { s.flash with bypassActive := false } } s))
      ∧ (items = enterItems s.toEngine → serves length items s →
        exec .flashBypassEnter s = .next (ending { afterBus length items s.toEngine with
          flash := { s.flash with bypassActive := true } } s))
      ∧ (items = exitItems s.toEngine → serves length items s →
        exec .flashBypassExit s = .next (ending { afterBus length items s.toEngine with
          flash := { s.flash with bypassActive := false } } s)))
    ∧ (bscStyle s.toEngine → items = resetItems s.toEngine → serves length items s →
      exec .flashResetRead s = .next (ending (afterBus length items s.toEngine) s))
    ∧ (spiStyle s.toEngine → exec .flashResetRead s = .next s)

/-! ## SPI flash -/

/-- 45_flash_spi.md R177 with R172, R173: SPI_CHIP_ERASE through DMA, on a controller that is not busy and a part whose
first status read shows WIP = 0: WREN, BE, then one RDSR transaction. -/
def Obligations.SpiChipErase : Prop :=
  ∀ (length : Nat) (s : State) (l : SpiLayout) (free status : Word) (items : List (Access × Word)), ready length s →
    spiStyle s.toEngine → l = sessionLayout s.toEngine →
    free.getLsbD l.busyBit = false → status.getLsbD s.cfg.wipBit = false →
    items = [(.write .word l.ctrlReg (l.start ||| l.code.wren), 0#32), (.read .word l.ctrlReg, free),
      (.write .word l.ctrlReg (l.start ||| l.code.be), 0#32), (.read .word l.ctrlReg, free),
      (.write .word l.ctrlReg (l.start ||| l.code.rdsr), 0#32), (.read .word l.ctrlReg, free),
      (.read .word l.dataReg, status)] →
    serves length items s →
    exec .spiChipErase s = .next (ending (afterBus length items s.toEngine) s)

/-- A row that is an SPI opcode, performed by itself, is one transaction on the controller of the session
(45_flash_spi.md R172); a row that is a Broadcom control word is the write that starts it (R171). What operands a bare
opcode takes and where its data goes is the model's choice (assumption 4). -/
def Obligations.SpiRows : Prop :=
  ∀ (length : Nat) (s : State) (l : SpiLayout) (free v : Word) (addr : Access × Word), ready length s →
    l = sessionLayout s.toEngine → free.getLsbD l.busyBit = false →
    addr = (.write .word l.addrReg ((s.regs.a - s.flash.base) &&& 0x00FFFFFF#32), 0#32) →
    (s.session.spiLayout ≠ none →
      (∀ y ∈ [(Instr.spiWren, startItems l l.code.wren free), (.spiBe, startItems l l.code.be free),
          (.spiSe, addr :: startItems l l.code.se free),
          (.spiPp, addr :: (.write .word l.dataReg s.regs.b, 0#32) :: startItems l l.code.pp free)],
        serves length y.2 s → exec y.1 s = .next (ending (afterBus length y.2 s.toEngine) s))
      ∧ (∀ y ∈ [(Instr.spiRdsr, startItems l l.code.rdsr free ++ [(Access.read .word l.dataReg, v)]),
          (.spiRdid, startItems l l.code.rdid free ++ [(.read .word l.dataReg, v)])],
        serves length y.2 s → exec y.1 s = .next (ending (setResult v (afterBus length y.2 s.toEngine)) s)))
    ∧ (∀ y ∈ [(Instr.spiWrenBroadcomCtrl, s.cfg.broadcom.code.wren),
          (.spiRdsrBroadcomCtrl, s.cfg.broadcom.code.rdsr), (.spiSeBroadcomCtrl, s.cfg.broadcom.code.se),
          (.spiPpBroadcomCtrl, s.cfg.broadcom.code.pp), (.spiRdidBroadcomCtrl, s.cfg.broadcom.code.rdid),
          (.spiBeBroadcomCtrl, s.cfg.broadcom.code.be)],
        ∀ items, items = [(Access.write .word s.cfg.broadcom.ctrlReg (s.cfg.broadcom.start ||| y.2), 0#32)] →
          serves length items s → exec y.1 s = .next (ending (afterBus length items s.toEngine) s))

/-- 60_exceptions.md R193 at the poll sites of the flash sequences (44_flash_parallel.md R162-R167, 45_flash_spi.md R172,
R173), through DMA: a poll that is not ready for some turns goes on, and the command ends as usual if the bound allows
them, or takes F_TIMEOUT with the site's address where it does not. Erase and program of every family and
SPI_CHIP_ERASE; both polls of an Intel-style erase, and the poll of each half of a program. -/
def Obligations.FlashPolls : Prop :=
  ∀ (length : Nat) (s : State) (a b addr r free : Word) (h : Half × Half) (bypass : Bool) (e : Engine)
      (setup enter : List (Access × Word)) (l : SpiLayout), ready length s → e = s.toEngine → a = s.regs.a →
    b = s.regs.b → h = programOrder e b → l = sessionLayout e → addr = (a - s.flash.base) &&& 0x00FFFFFF#32 →
    bypass = programsInBypass e → enter = (if s.options.bypass = true then enterItems e else []) →
    setup = (if bypass = true then [cycle s.flash.base (partTable e).bypassProgram]
      else unlockItems e (partTable e).program) →
    (amdStyle e →
      pollSite length s .flashEraseBlock a { s.flash with bypassActive := false }
        (exitItems e ++ unlockItems e (partTable e).eraseSetup
          ++ [offsetItem e (partTable e).unlock1Offset (partTable e).unlock1,
            offsetItem e (partTable e).unlock2Offset (partTable e).unlock2, cycle a (partTable e).sectorErase])
        (fun v => [(.read .half a, v)]) (fun v => (lane s.cfg.endian a v).getLsbD s.cfg.nor.amdReady)
        (resetItems e)
      ∧ (lane s.cfg.endian (a + 2#32) r = h.2 →
        pollSite length s .flashProgramWord a { s.flash with bypassActive := bypass } (enter ++ setup ++ [cycle a h.1])
          (fun v => [(.read .half a, v)]) (fun v => decide (lane s.cfg.endian a v = h.1))
          (halfItemsAmd e bypass (a + 2#32) h.2 r ++ (if bypass = true then [] else resetItems e)))
      ∧ (lane s.cfg.endian a r = h.1 →
        pollSite length s .flashProgramWord (a + 2#32) { s.flash with bypassActive := bypass }
          (enter ++ halfItemsAmd e bypass a h.1 r ++ setup ++ [cycle (a + 2#32) h.2])
          (fun v => [(.read .half (a + 2#32), v)]) (fun v => decide (lane s.cfg.endian (a + 2#32) v = h.2))
          (if bypass = true then [] else resetItems e)))
    ∧ (bscStyle e →
      ∀ (first second : List (Access × Word)) (done : Word → Word → Bool),
        first = [cycle a s.cfg.bsc.clearStatus, cycle a s.cfg.bsc.unlockSetup, cycle a s.cfg.bsc.confirm,
          cycle a s.cfg.bsc.readStatus] →
        second = [cycle a s.cfg.bsc.clearStatus, cycle a s.cfg.bsc.eraseSetup, cycle a s.cfg.bsc.confirm,
          cycle a s.cfg.bsc.readStatus] →
        (∀ x v, done x v = (lane s.cfg.endian x v).getLsbD s.cfg.nor.bscReady) →
        (done a r = true →
          pollSite length s .flashEraseBlock a s.flash first (fun v => [(.read .half a, v)]) (done a)
            (second ++ [(.read .half a, r)] ++ resetItems e)
          ∧ pollSite length s .flashEraseBlock a s.flash (first ++ [(.read .half a, r)] ++ second)
            (fun v => [(.read .half a, v)]) (done a) (resetItems e)
          ∧ pollSite length s .flashProgramWord (a + 2#32) s.flash
            (halfItemsBsc e a h.1 r ++ [cycle (a + 2#32) s.cfg.bsc.clearStatus,
              cycle (a + 2#32) s.cfg.bsc.programSetup, cycle (a + 2#32) h.2])
            (fun v => [(.read .half (a + 2#32), v)]) (done (a + 2#32)) (resetItems e))
        ∧ (done (a + 2#32) r = true →
          pollSite length s .flashProgramWord a s.flash
            [cycle a s.cfg.bsc.clearStatus, cycle a s.cfg.bsc.programSetup, cycle a h.1]
            (fun v => [(.read .half a, v)]) (done a) (halfItemsBsc e (a + 2#32) h.2 r ++ resetItems e)))
    ∧ (spiStyle e → free.getLsbD l.busyBit = false →
      (r.getLsbD s.cfg.wipBit = false →
        pollSite length s .spiChipErase l.ctrlReg s.flash [(.write .word l.ctrlReg (l.start ||| l.code.wren), 0#32)]
          (fun v => [(.read .word l.ctrlReg, v)]) (fun v => !v.getLsbD l.busyBit)
          (startItems l l.code.be free ++ wipItems l free r))
      ∧ ∀ x ∈ [(Instr.spiChipErase, ([] : List (Access × Word)), l.code.be),
          (.flashEraseBlock, [(.write .word l.addrReg addr, 0#32)], l.code.se),
          (.flashProgramWord, [(.write .word l.addrReg addr, 0#32), (.write .word l.dataReg b, 0#32)], l.code.pp)],
        pollSite length s x.1 l.dataReg s.flash
          (startItems l l.code.wren free ++ x.2.1 ++ startItems l x.2.2 free) (wipItems l free)
          (fun v => !v.getLsbD s.cfg.wipBit) [])

/-! ## Area operations and teardown -/

/-- 46_area_ops.md R181, R182, R185 and 60_exceptions.md R188-R190: the checks of the area commands in order: without an
area; an erase or a program of an SPI part without a layout; with nothing to do; and, after the size guard, which has
then cleared SKIPPED (R181, decision D48), without a stream. The skip is no fault; a fault changes nothing else. -/
def Obligations.AreaChecks : Prop :=
  ∀ (length : Nat) (s : State), ready length s →
    (s.area.valid = false → ∀ i ∈ [Instr.areaBackup, .areaErase, .areaProgram], exec i s = .next { s with
      regs := { s.regs with result := s.regs.a }
      status := { s.status with faulted := true, faultCode := .badArea } })
    ∧ (s.area.valid = true → s.flash.cmdType = some .spi → s.session.spiLayout = none →
      ∀ i ∈ [Instr.areaErase, .areaProgram], exec i s = .next { s with
        regs := { s.regs with result := s.regs.cmd }
        status := { s.status with faulted := true, faultCode := .unsupported } })
    ∧ (s.area.valid = true → (s.flash.size = 0#32 ∨ s.area.length = 0#32) →
      ∀ i ∈ [Instr.areaBackup, .areaErase, .areaProgram],
        (i = .areaBackup ∨ s.flash.cmdType ≠ some .spi ∨ s.session.spiLayout ≠ none) →
        exec i s = .next { s with
          regs := { s.regs with result := 0#32 }
          status := { s.status with skipped := true } })
    ∧ (s.area.valid = true → s.flash.size ≠ 0#32 → s.area.length ≠ 0#32 → s.streams.ok = false →
      modulesPresent s.toEngine →
      ∀ i ∈ [Instr.areaBackup, .areaProgram],
        (i = .areaBackup ∨ s.flash.cmdType ≠ some .spi ∨ s.session.spiLayout ≠ none) →
        exec i s = .next { s with
          regs := { s.regs with result := s.regs.cmd }
          status := { s.status with skipped := false, faulted := true, faultCode := .stream } })

/-- 46_area_ops.md R182: AREA_BACKUP through DMA reads the words of the area in order and emits each, big-endian or
byte-swapped; RESULT is their number. -/
def Obligations.AreaBackup : Prop :=
  ∀ (length : Nat) (s : State) (words : List Word) (items : List (Access × Word)), ready length s →
    s.area.valid = true → s.flash.size ≠ 0#32 → s.area.length ≠ 0#32 → s.streams.ok = true →
    words.length = (s.area.length.toNat + 3) / 4 →
    items = words.mapIdx (fun n w => (.read .word (s.area.start + BitVec.ofNat 32 (4 * n)), w)) →
    serves length items s →
    exec .areaBackup s = .next (ending { afterBus length items s.toEngine with
      regs := { s.regs with result := BitVec.ofNat 32 words.length }
      status := { s.status with skipped := false }
      streams := { s.streams with
        output := s.streams.output ++ words.flatMap fun w =>
          if s.options.swapEndian = true
          then [w.extractLsb' 0 8, w.extractLsb' 8 8, w.extractLsb' 16 8, w.extractLsb' 24 8]
          else [w.extractLsb' 24 8, w.extractLsb' 16 8, w.extractLsb' 8 8, w.extractLsb' 0 8] } } s)

/-- 46_area_ops.md R183: the blocks of an area are the entries of the table that lie in it, in table order and each as
often as it stands there, with an end that does not wrap. -/
def Obligations.BlocksOfArea : Prop :=
  ∀ (table : List Word) (start length : Word), (selectBlocks table start length).Sublist table
    ∧ ∀ a : Word, (selectBlocks table start length).count a
        = if start.toNat ≤ a.toNat ∧ a.toNat < start.toNat + length.toNat then table.count a else 0

/-- 46_area_ops.md R184 with R183: AREA_ERASE through DMA performs the erase of FLASH_ERASE_BLOCK, reset included, on each
block of the area in table order, for every family; RESULT is their number. `replies` are what the status reads of each
block get (two status words, and the control word of a free SPI controller). Bypass mode is left before the first. -/
def Obligations.AreaErase : Prop :=
  ∀ (length : Nat) (s : State) (blocks : List Word) (replies : List (Word × Word × Word))
      (items : List (Access × Word)),
    ready length s → s.area.valid = true → s.flash.size ≠ 0#32 → s.area.length ≠ 0#32 →
    (amdStyle s.toEngine ∨ bscStyle s.toEngine ∨ spiStyle s.toEngine) →
    blocks = s.flash.blockTable.filter
      (fun a => decide (s.area.start.toNat ≤ a.toNat ∧ a.toNat < s.area.start.toNat + s.area.length.toNat)) →
    replies.length = blocks.length →
    (∀ x ∈ blocks.zip replies, eraseReady s.toEngine x.1 x.2.1 x.2.2.1 x.2.2.2) →
    items = (if amdStyle s.toEngine ∧ blocks ≠ [] then exitItems s.toEngine else [])
      ++ (blocks.zip replies).flatMap (fun x => eraseItems s.toEngine x.1 x.2.1 x.2.2.1 x.2.2.2) →
    serves length items s →
    exec .areaErase s = .next (ending { afterBus length items s.toEngine with
      regs := { s.regs with result := BitVec.ofNat 32 blocks.length }
      status := { s.status with skipped := false }
      flash := if amdStyle s.toEngine ∧ blocks ≠ [] then { s.flash with bypassActive := false } else s.flash } s)

/-- 46_area_ops.md R185 with R180: AREA_PROGRAM through DMA programs every word of the area in order from the stream, for
every family, padding past its end; `replies` are what the polls of each word read. On an AMD-style part bypass mode
is entered before the first word if opt_bypass says so, and left after the last; a reset-to-read ends it. bypass_active
is 0 at the end on every part, as the rule's status line says (assumption 11). -/
def Obligations.AreaProgram : Prop :=
  ∀ (length : Nat) (s : State) (free : Word) (words : List Word) (replies : List (Word × Word)) (bypass : Bool)
      (n : Nat) (items : List (Access × Word)),
    ready length s → s.area.valid = true → s.flash.size ≠ 0#32 → s.area.length ≠ 0#32 → s.streams.ok = true →
    (amdStyle s.toEngine ∨ bscStyle s.toEngine ∨ spiStyle s.toEngine) →
    n = (s.area.length.toNat + 3) / 4 → words = takenWords s.options.swapEndian n s.streams.input →
    replies.length = n → bypass = programsInBypass s.toEngine →
    (∀ k w r, words[k]? = some w → replies[k]? = some r →
      programReady s.toEngine (s.area.start + BitVec.ofNat 32 (4 * k)) w r.1 r.2 free) →
    items = (if amdStyle s.toEngine ∧ s.options.bypass = true then enterItems s.toEngine else [])
      ++ ((words.zip replies).mapIdx fun k x =>
          programItems s.toEngine bypass (s.area.start + BitVec.ofNat 32 (4 * k)) x.1 x.2.1 x.2.2 free).flatten
      ++ (if amdStyle s.toEngine ∧ bypass = true
          then [cycle s.flash.base (partTable s.toEngine).bypassExit1,
            cycle s.flash.base (partTable s.toEngine).bypassExit2] else [])
      ++ resetItems s.toEngine →
    serves length items s →
    exec .areaProgram s = .next (ending { afterBus length items s.toEngine with
      regs := { s.regs with result := BitVec.ofNat 32 n }
      status := { s.status with skipped := false }
      flash := { s.flash with bypassActive := false }
      streams := { s.streams with input := s.streams.input.drop (4 * n) } } s)

/-- 46_area_ops.md R186: SESSION_END, also while FAULTED = 1. While tap_shadow is not RUN_TEST_IDLE or ir_length is UNSET,
only the TestReset runs. With the TAP ready, through DMA: the reset-to-read of a selected part, then with opt_reboot the
CONTROL sequence of PROC_RESET, then the TestReset; with use_dma = 0 the same where no flash access is issued.
bypass_active is 0 at the end on every part, as the rule's status line says (assumption 11). -/
def Obligations.SessionEnd : Prop :=
  (∀ s : State, s.running = none → 6 ≤ clocksAllowed s →
      (s.cable.shadow ≠ some .runTestIdle ∨ s.tap.irLength = none) →
      exec .sessionEnd s = .next (ending { s.toEngine with
        cable := { driven (resetSequence ++ resetExit) s.cable with shadow := some .runTestIdle }
        tap := { s.tap with irCache := none }
        flash := { s.flash with bypassActive := false } } s))
    ∧ ∀ (length : Nat) (s : State) (items : List (Access × Word)) (reboot : List Exchange) (e : Engine),
      s.running = none → s.cable.shadow = some .runTestIdle → s.tap.irLength = some length →
      items = (if amdStyle s.toEngine then exitItems s.toEngine else [])
        ++ (if s.flash.cmdType = some .spi ∧ s.session.spiLayout = none then [] else resetItems s.toEngine) →
      (s.session.useDma = true ∨ items = []) →
      reboot = (if s.options.reboot = true
        then [.select s.cfg.ir.control, .swap (ctlReset s.cfg.ctl) anyReply, .swap 0#32 anyReply] else []) →
      answered length s.cable 0 s.tap.irCache (busScript s.toEngine items ++ reboot) = true →
      (scriptClocks length s.tap.irCache (busScript s.toEngine items ++ reboot)).length + 6 ≤ clocksAllowed s →
      e = afterScript length reboot (afterBus length items s.toEngine) →
      exec .sessionEnd s = .next (ending { e with
        cable := { driven (resetSequence ++ resetExit) e.cable with shadow := some .runTestIdle }
        tap := { e.tap with irCache := none }
        flash := { s.flash with bypassActive := false } } s)
end

