-- ==== Sys2Proof/Laws/Cable.lean ====
section
/-!
SUPPORT. What a run of clocks does: the TDO bits it returns, the clocks it records, the TAP state it leaves; and the
length and the effect on tap_shadow of the three clock sequences.
-/

namespace Sys2Proof.Machine

/-! ## One clock -/

theorem clockPins_clocks (k : CableClock) (c : Cable) : (clockPins k c).2.clocks = c.clocks ++ [k] := by
  obtain ⟨sh, tin, d, cl⟩ := c
  cases tin <;> rfl

theorem clockPins_shadow (k : CableClock) (c : Cable) : (clockPins k c).2.shadow = shadowNext c.shadow k.tms := by
  obtain ⟨sh, tin, d, cl⟩ := c
  cases tin <;> rfl

theorem clockPins_tdo (k : CableClock) (c : Cable) : (clockPins k c).1 = tdoAt c 0 := by
  obtain ⟨sh, tin, d, cl⟩ := c
  cases tin <;> simp [clockPins, tdoAt]

theorem tdoAt_clockPins (k : CableClock) (c : Cable) (n : Nat) : tdoAt (clockPins k c).2 n = tdoAt c (n + 1) := by
  obtain ⟨sh, tin, d, cl⟩ := c
  cases tin with
  | nil => simp [clockPins, tdoAt]; congr 1; omega
  | cons b rest => simp [clockPins, tdoAt]

/-! ## A run of clocks -/

@[simp] theorem driven_nil (c : Cable) : driven [] c = c := rfl

theorem driven_cons (k : CableClock) (ks : List CableClock) (c : Cable) :
    driven (k :: ks) c = driven ks (clockPins k c).2 := rfl

theorem driven_append (ks js : List CableClock) (c : Cable) :
    driven (ks ++ js) c = driven js (driven ks c) := by
  induction ks generalizing c with
  | nil => rfl
  | cons k ks ih => simp only [List.cons_append, driven_cons, ih]

/-- The TDO bits a run returns are the upcoming ones. -/
theorem runClocks_tdo (ks : List CableClock) (c : Cable) :
    (runClocks ks c).1 = (List.range ks.length).map (tdoAt c) := by
  induction ks generalizing c with
  | nil => rfl
  | cons k ks ih =>
    have : (runClocks (k :: ks) c).1 = (clockPins k c).1 :: (runClocks ks (clockPins k c).2).1 := rfl
    rw [this, ih, clockPins_tdo, List.length_cons, List.range_succ_eq_map, List.map_cons, List.map_map]
    congr 1
    exact List.map_congr_left fun i _ => tdoAt_clockPins k c i

theorem tdoAt_driven (ks : List CableClock) (c : Cable) (n : Nat) :
    tdoAt (driven ks c) n = tdoAt c (ks.length + n) := by
  induction ks generalizing c with
  | nil => simp
  | cons k ks ih => rw [driven_cons, ih, tdoAt_clockPins, List.length_cons]; congr 1; omega

theorem driven_clocks (ks : List CableClock) (c : Cable) : (driven ks c).clocks = c.clocks ++ ks := by
  induction ks generalizing c with
  | nil => simp
  | cons k ks ih => rw [driven_cons, ih, clockPins_clocks]; simp

/-- tap_shadow follows the TMS bits (40_tap.md R90). -/
theorem driven_shadow (ks : List CableClock) (c : Cable) :
    (driven ks c).shadow = ks.foldl (fun s k => shadowNext s k.tms) c.shadow := by
  induction ks generalizing c with
  | nil => rfl
  | cons k ks ih => rw [driven_cons, ih, clockPins_shadow]; rfl

/-- A word captured after some clocks is the word at that distance. -/
theorem replyAt_driven (ks : List CableClock) (c : Cable) (n : Nat) :
    replyAt (driven ks c) n = replyAt c (ks.length + n) := by
  simp only [replyAt, tdoAt_driven, Nat.add_assoc]

/-! ## The three sequences -/

theorem shiftSequence_length (n : Nat) (v : Word) : (shiftSequence n v).length = n := by
  simp [shiftSequence]

@[simp] theorem irSequence_length (length : Nat) (instr : Word) : (irSequence length instr).length = length + 6 := by
  simp only [irSequence, List.length_append, shiftSequence_length, List.length_cons, List.length_nil]
  omega

@[simp] theorem drSequence_length (v : Word) : (drSequence v).length = 37 := by
  simp [drSequence, shiftSequence_length]

/-- RWData returns the word at distance 0. -/
theorem captured_drSequence (v : Word) (c : Cable) :
    capturedWord (runClocks (drSequence v) c).1 = replyAt c 0 := by
  rw [runClocks_tdo, drSequence_length, replyAt]
  simp

/-- The shift clocks leave the shift state only at the last one. -/
theorem shiftSequence_shadow (n : Nat) (v : Word) (hn : 1 ≤ n) (s x : TapState)
    (stay : tapNext s false = s) (leave : tapNext s true = x) :
    (shiftSequence n v).foldl (fun s k => shadowNext s k.tms) (some s) = some x := by
  obtain ⟨m, rfl⟩ : ∃ m, n = m + 1 := ⟨n - 1, by omega⟩
  have steps : ∀ k, k ≤ m →
      ((List.range k).map fun i => (⟨decide (i + 1 = m + 1), v.getLsbD i⟩ : CableClock)).foldl
        (fun s k => shadowNext s k.tms) (some s) = some s := by
    intro k hk
    induction k with
    | zero => rfl
    | succ k ih =>
      rw [List.range_succ, List.map_append, List.foldl_append, ih (by omega)]
      have : decide (k = m) = false := by simp; omega
      simp [shadowNext, this, stay]
  rw [shiftSequence, List.range_succ, List.map_append, List.foldl_append, steps m (Nat.le_refl m)]
  simp [shadowNext, leave]

/-- A complete SetIR begins and ends in Run-Test-Idle (40_tap.md R96). -/
theorem driven_irSequence_shadow (length : Nat) (instr : Word) (c : Cable) (hl : 1 ≤ length)
    (h : c.shadow = some .runTestIdle) : (driven (irSequence length instr) c).shadow = some .runTestIdle := by
  rw [driven_shadow, h, irSequence, List.foldl_append, List.foldl_append]
  have first : ([⟨true, false⟩, ⟨true, false⟩, ⟨false, false⟩, ⟨false, false⟩] : List CableClock).foldl
      (fun s k => shadowNext s k.tms) (some TapState.runTestIdle) = some .shiftIr := rfl
  rw [first, shiftSequence_shadow length instr hl .shiftIr .exit1Ir rfl rfl]
  rfl

/-- A complete RWData begins and ends in Run-Test-Idle (40_tap.md R98). -/
theorem driven_drSequence_shadow (v : Word) (c : Cable) (h : c.shadow = some .runTestIdle) :
    (driven (drSequence v) c).shadow = some .runTestIdle := by
  rw [driven_shadow, h, drSequence, List.foldl_append, List.foldl_append]
  have first : ([⟨true, false⟩, ⟨false, false⟩, ⟨false, false⟩] : List CableClock).foldl
      (fun s k => shadowNext s k.tms) (some TapState.runTestIdle) = some .shiftDr := rfl
  rw [first, shiftSequence_shadow 32 v (by omega) .shiftDr .exit1Dr rfl rfl]
  rfl

end Sys2Proof.Machine
end

