-- ==== Sys2Proof/Laws/State.lean ====
section
/-!
SUPPORT. What each update of the engine leaves in each field, true by computation. With these in the simp set no proof
unfolds a record update.
-/

namespace Sys2Proof.Machine

variable (e : Engine)

@[simp] theorem setRegs_regs (f : HostRegs → HostRegs) : (setRegs f e).regs = f e.regs := rfl
@[simp] theorem setRegs_status (f : HostRegs → HostRegs) : (setRegs f e).status = e.status := rfl
@[simp] theorem setRegs_cable (f : HostRegs → HostRegs) : (setRegs f e).cable = e.cable := rfl
@[simp] theorem setRegs_tap (f : HostRegs → HostRegs) : (setRegs f e).tap = e.tap := rfl
@[simp] theorem setRegs_session (f : HostRegs → HostRegs) : (setRegs f e).session = e.session := rfl
@[simp] theorem setRegs_flash (f : HostRegs → HostRegs) : (setRegs f e).flash = e.flash := rfl
@[simp] theorem setRegs_area (f : HostRegs → HostRegs) : (setRegs f e).area = e.area := rfl
@[simp] theorem setRegs_options (f : HostRegs → HostRegs) : (setRegs f e).options = e.options := rfl
@[simp] theorem setRegs_vregs (f : HostRegs → HostRegs) : (setRegs f e).vregs = e.vregs := rfl
@[simp] theorem setRegs_streams (f : HostRegs → HostRegs) : (setRegs f e).streams = e.streams := rfl
@[simp] theorem setRegs_bus (f : HostRegs → HostRegs) : (setRegs f e).bus = e.bus := rfl
@[simp] theorem setRegs_cfg (f : HostRegs → HostRegs) : (setRegs f e).cfg = e.cfg := rfl

@[simp] theorem setStatus_regs (f : Status → Status) : (setStatus f e).regs = e.regs := rfl
@[simp] theorem setStatus_status (f : Status → Status) : (setStatus f e).status = f e.status := rfl
@[simp] theorem setStatus_cable (f : Status → Status) : (setStatus f e).cable = e.cable := rfl
@[simp] theorem setStatus_tap (f : Status → Status) : (setStatus f e).tap = e.tap := rfl
@[simp] theorem setStatus_session (f : Status → Status) : (setStatus f e).session = e.session := rfl
@[simp] theorem setStatus_flash (f : Status → Status) : (setStatus f e).flash = e.flash := rfl
@[simp] theorem setStatus_area (f : Status → Status) : (setStatus f e).area = e.area := rfl
@[simp] theorem setStatus_options (f : Status → Status) : (setStatus f e).options = e.options := rfl
@[simp] theorem setStatus_vregs (f : Status → Status) : (setStatus f e).vregs = e.vregs := rfl
@[simp] theorem setStatus_streams (f : Status → Status) : (setStatus f e).streams = e.streams := rfl
@[simp] theorem setStatus_bus (f : Status → Status) : (setStatus f e).bus = e.bus := rfl
@[simp] theorem setStatus_cfg (f : Status → Status) : (setStatus f e).cfg = e.cfg := rfl

@[simp] theorem setCable_regs (f : Cable → Cable) : (setCable f e).regs = e.regs := rfl
@[simp] theorem setCable_status (f : Cable → Cable) : (setCable f e).status = e.status := rfl
@[simp] theorem setCable_cable (f : Cable → Cable) : (setCable f e).cable = f e.cable := rfl
@[simp] theorem setCable_tap (f : Cable → Cable) : (setCable f e).tap = e.tap := rfl
@[simp] theorem setCable_session (f : Cable → Cable) : (setCable f e).session = e.session := rfl
@[simp] theorem setCable_flash (f : Cable → Cable) : (setCable f e).flash = e.flash := rfl
@[simp] theorem setCable_area (f : Cable → Cable) : (setCable f e).area = e.area := rfl
@[simp] theorem setCable_options (f : Cable → Cable) : (setCable f e).options = e.options := rfl
@[simp] theorem setCable_vregs (f : Cable → Cable) : (setCable f e).vregs = e.vregs := rfl
@[simp] theorem setCable_streams (f : Cable → Cable) : (setCable f e).streams = e.streams := rfl
@[simp] theorem setCable_bus (f : Cable → Cable) : (setCable f e).bus = e.bus := rfl
@[simp] theorem setCable_cfg (f : Cable → Cable) : (setCable f e).cfg = e.cfg := rfl

@[simp] theorem setTap_regs (f : TapSession → TapSession) : (setTap f e).regs = e.regs := rfl
@[simp] theorem setTap_status (f : TapSession → TapSession) : (setTap f e).status = e.status := rfl
@[simp] theorem setTap_cable (f : TapSession → TapSession) : (setTap f e).cable = e.cable := rfl
@[simp] theorem setTap_tap (f : TapSession → TapSession) : (setTap f e).tap = f e.tap := rfl
@[simp] theorem setTap_session (f : TapSession → TapSession) : (setTap f e).session = e.session := rfl
@[simp] theorem setTap_flash (f : TapSession → TapSession) : (setTap f e).flash = e.flash := rfl
@[simp] theorem setTap_area (f : TapSession → TapSession) : (setTap f e).area = e.area := rfl
@[simp] theorem setTap_options (f : TapSession → TapSession) : (setTap f e).options = e.options := rfl
@[simp] theorem setTap_vregs (f : TapSession → TapSession) : (setTap f e).vregs = e.vregs := rfl
@[simp] theorem setTap_streams (f : TapSession → TapSession) : (setTap f e).streams = e.streams := rfl
@[simp] theorem setTap_bus (f : TapSession → TapSession) : (setTap f e).bus = e.bus := rfl
@[simp] theorem setTap_cfg (f : TapSession → TapSession) : (setTap f e).cfg = e.cfg := rfl

@[simp] theorem setSession_regs (f : Session → Session) : (setSession f e).regs = e.regs := rfl
@[simp] theorem setSession_status (f : Session → Session) : (setSession f e).status = e.status := rfl
@[simp] theorem setSession_cable (f : Session → Session) : (setSession f e).cable = e.cable := rfl
@[simp] theorem setSession_tap (f : Session → Session) : (setSession f e).tap = e.tap := rfl
@[simp] theorem setSession_session (f : Session → Session) : (setSession f e).session = f e.session := rfl
@[simp] theorem setSession_flash (f : Session → Session) : (setSession f e).flash = e.flash := rfl
@[simp] theorem setSession_area (f : Session → Session) : (setSession f e).area = e.area := rfl
@[simp] theorem setSession_options (f : Session → Session) : (setSession f e).options = e.options := rfl
@[simp] theorem setSession_vregs (f : Session → Session) : (setSession f e).vregs = e.vregs := rfl
@[simp] theorem setSession_streams (f : Session → Session) : (setSession f e).streams = e.streams := rfl
@[simp] theorem setSession_bus (f : Session → Session) : (setSession f e).bus = e.bus := rfl
@[simp] theorem setSession_cfg (f : Session → Session) : (setSession f e).cfg = e.cfg := rfl

@[simp] theorem setFlash_regs (f : Flash → Flash) : (setFlash f e).regs = e.regs := rfl
@[simp] theorem setFlash_status (f : Flash → Flash) : (setFlash f e).status = e.status := rfl
@[simp] theorem setFlash_cable (f : Flash → Flash) : (setFlash f e).cable = e.cable := rfl
@[simp] theorem setFlash_tap (f : Flash → Flash) : (setFlash f e).tap = e.tap := rfl
@[simp] theorem setFlash_session (f : Flash → Flash) : (setFlash f e).session = e.session := rfl
@[simp] theorem setFlash_flash (f : Flash → Flash) : (setFlash f e).flash = f e.flash := rfl
@[simp] theorem setFlash_area (f : Flash → Flash) : (setFlash f e).area = e.area := rfl
@[simp] theorem setFlash_options (f : Flash → Flash) : (setFlash f e).options = e.options := rfl
@[simp] theorem setFlash_vregs (f : Flash → Flash) : (setFlash f e).vregs = e.vregs := rfl
@[simp] theorem setFlash_streams (f : Flash → Flash) : (setFlash f e).streams = e.streams := rfl
@[simp] theorem setFlash_bus (f : Flash → Flash) : (setFlash f e).bus = e.bus := rfl
@[simp] theorem setFlash_cfg (f : Flash → Flash) : (setFlash f e).cfg = e.cfg := rfl

@[simp] theorem setArea_regs (f : Area → Area) : (setArea f e).regs = e.regs := rfl
@[simp] theorem setArea_status (f : Area → Area) : (setArea f e).status = e.status := rfl
@[simp] theorem setArea_cable (f : Area → Area) : (setArea f e).cable = e.cable := rfl
@[simp] theorem setArea_tap (f : Area → Area) : (setArea f e).tap = e.tap := rfl
@[simp] theorem setArea_session (f : Area → Area) : (setArea f e).session = e.session := rfl
@[simp] theorem setArea_flash (f : Area → Area) : (setArea f e).flash = e.flash := rfl
@[simp] theorem setArea_area (f : Area → Area) : (setArea f e).area = f e.area := rfl
@[simp] theorem setArea_options (f : Area → Area) : (setArea f e).options = e.options := rfl
@[simp] theorem setArea_vregs (f : Area → Area) : (setArea f e).vregs = e.vregs := rfl
@[simp] theorem setArea_streams (f : Area → Area) : (setArea f e).streams = e.streams := rfl
@[simp] theorem setArea_bus (f : Area → Area) : (setArea f e).bus = e.bus := rfl
@[simp] theorem setArea_cfg (f : Area → Area) : (setArea f e).cfg = e.cfg := rfl

@[simp] theorem setOptions_regs (f : Options) : (setOptions f e).regs = e.regs := rfl
@[simp] theorem setOptions_status (f : Options) : (setOptions f e).status = e.status := rfl
@[simp] theorem setOptions_cable (f : Options) : (setOptions f e).cable = e.cable := rfl
@[simp] theorem setOptions_tap (f : Options) : (setOptions f e).tap = e.tap := rfl
@[simp] theorem setOptions_session (f : Options) : (setOptions f e).session = e.session := rfl
@[simp] theorem setOptions_flash (f : Options) : (setOptions f e).flash = e.flash := rfl
@[simp] theorem setOptions_area (f : Options) : (setOptions f e).area = e.area := rfl
@[simp] theorem setOptions_options (f : Options) : (setOptions f e).options = f := rfl
@[simp] theorem setOptions_vregs (f : Options) : (setOptions f e).vregs = e.vregs := rfl
@[simp] theorem setOptions_streams (f : Options) : (setOptions f e).streams = e.streams := rfl
@[simp] theorem setOptions_bus (f : Options) : (setOptions f e).bus = e.bus := rfl
@[simp] theorem setOptions_cfg (f : Options) : (setOptions f e).cfg = e.cfg := rfl

@[simp] theorem setVregs_regs (f : VirtualRegs → VirtualRegs) : (setVregs f e).regs = e.regs := rfl
@[simp] theorem setVregs_status (f : VirtualRegs → VirtualRegs) : (setVregs f e).status = e.status := rfl
@[simp] theorem setVregs_cable (f : VirtualRegs → VirtualRegs) : (setVregs f e).cable = e.cable := rfl
@[simp] theorem setVregs_tap (f : VirtualRegs → VirtualRegs) : (setVregs f e).tap = e.tap := rfl
@[simp] theorem setVregs_session (f : VirtualRegs → VirtualRegs) : (setVregs f e).session = e.session := rfl
@[simp] theorem setVregs_flash (f : VirtualRegs → VirtualRegs) : (setVregs f e).flash = e.flash := rfl
@[simp] theorem setVregs_area (f : VirtualRegs → VirtualRegs) : (setVregs f e).area = e.area := rfl
@[simp] theorem setVregs_options (f : VirtualRegs → VirtualRegs) : (setVregs f e).options = e.options := rfl
@[simp] theorem setVregs_vregs (f : VirtualRegs → VirtualRegs) : (setVregs f e).vregs = f e.vregs := rfl
@[simp] theorem setVregs_streams (f : VirtualRegs → VirtualRegs) : (setVregs f e).streams = e.streams := rfl
@[simp] theorem setVregs_bus (f : VirtualRegs → VirtualRegs) : (setVregs f e).bus = e.bus := rfl
@[simp] theorem setVregs_cfg (f : VirtualRegs → VirtualRegs) : (setVregs f e).cfg = e.cfg := rfl

@[simp] theorem setStreams_regs (f : Streams → Streams) : (setStreams f e).regs = e.regs := rfl
@[simp] theorem setStreams_status (f : Streams → Streams) : (setStreams f e).status = e.status := rfl
@[simp] theorem setStreams_cable (f : Streams → Streams) : (setStreams f e).cable = e.cable := rfl
@[simp] theorem setStreams_tap (f : Streams → Streams) : (setStreams f e).tap = e.tap := rfl
@[simp] theorem setStreams_session (f : Streams → Streams) : (setStreams f e).session = e.session := rfl
@[simp] theorem setStreams_flash (f : Streams → Streams) : (setStreams f e).flash = e.flash := rfl
@[simp] theorem setStreams_area (f : Streams → Streams) : (setStreams f e).area = e.area := rfl
@[simp] theorem setStreams_options (f : Streams → Streams) : (setStreams f e).options = e.options := rfl
@[simp] theorem setStreams_vregs (f : Streams → Streams) : (setStreams f e).vregs = e.vregs := rfl
@[simp] theorem setStreams_streams (f : Streams → Streams) : (setStreams f e).streams = f e.streams := rfl
@[simp] theorem setStreams_bus (f : Streams → Streams) : (setStreams f e).bus = e.bus := rfl
@[simp] theorem setStreams_cfg (f : Streams → Streams) : (setStreams f e).cfg = e.cfg := rfl

@[simp] theorem recordAccess_regs (f : Access) : (recordAccess f e).regs = e.regs := rfl
@[simp] theorem recordAccess_status (f : Access) : (recordAccess f e).status = e.status := rfl
@[simp] theorem recordAccess_cable (f : Access) : (recordAccess f e).cable = e.cable := rfl
@[simp] theorem recordAccess_tap (f : Access) : (recordAccess f e).tap = e.tap := rfl
@[simp] theorem recordAccess_session (f : Access) : (recordAccess f e).session = e.session := rfl
@[simp] theorem recordAccess_flash (f : Access) : (recordAccess f e).flash = e.flash := rfl
@[simp] theorem recordAccess_area (f : Access) : (recordAccess f e).area = e.area := rfl
@[simp] theorem recordAccess_options (f : Access) : (recordAccess f e).options = e.options := rfl
@[simp] theorem recordAccess_vregs (f : Access) : (recordAccess f e).vregs = e.vregs := rfl
@[simp] theorem recordAccess_streams (f : Access) : (recordAccess f e).streams = e.streams := rfl
@[simp] theorem recordAccess_bus (f : Access) : (recordAccess f e).bus = e.bus ++ [f] := rfl
@[simp] theorem recordAccess_cfg (f : Access) : (recordAccess f e).cfg = e.cfg := rfl

@[simp] theorem setResult_regs (v : Word) : (setResult v e).regs = { e.regs with result := v } := rfl
@[simp] theorem setResult_status (v : Word) : (setResult v e).status = e.status := rfl
@[simp] theorem setResult_cable (v : Word) : (setResult v e).cable = e.cable := rfl
@[simp] theorem setResult_tap (v : Word) : (setResult v e).tap = e.tap := rfl
@[simp] theorem setResult_session (v : Word) : (setResult v e).session = e.session := rfl
@[simp] theorem setResult_flash (v : Word) : (setResult v e).flash = e.flash := rfl
@[simp] theorem setResult_area (v : Word) : (setResult v e).area = e.area := rfl
@[simp] theorem setResult_options (v : Word) : (setResult v e).options = e.options := rfl
@[simp] theorem setResult_vregs (v : Word) : (setResult v e).vregs = e.vregs := rfl
@[simp] theorem setResult_streams (v : Word) : (setResult v e).streams = e.streams := rfl
@[simp] theorem setResult_bus (v : Word) : (setResult v e).bus = e.bus := rfl
@[simp] theorem setResult_cfg (v : Word) : (setResult v e).cfg = e.cfg := rfl

@[simp] theorem faultedEngine_regs (code : FaultCode) (info : Word) : (faultedEngine code info e).regs = { e.regs with result := info } := rfl
@[simp] theorem faultedEngine_status (code : FaultCode) (info : Word) : (faultedEngine code info e).status = faultedStatus code e.status := rfl
@[simp] theorem faultedEngine_cable (code : FaultCode) (info : Word) : (faultedEngine code info e).cable = e.cable := rfl
@[simp] theorem faultedEngine_tap (code : FaultCode) (info : Word) : (faultedEngine code info e).tap = e.tap := rfl
@[simp] theorem faultedEngine_session (code : FaultCode) (info : Word) : (faultedEngine code info e).session = e.session := rfl
@[simp] theorem faultedEngine_flash (code : FaultCode) (info : Word) : (faultedEngine code info e).flash = e.flash := rfl
@[simp] theorem faultedEngine_area (code : FaultCode) (info : Word) : (faultedEngine code info e).area = e.area := rfl
@[simp] theorem faultedEngine_options (code : FaultCode) (info : Word) : (faultedEngine code info e).options = e.options := rfl
@[simp] theorem faultedEngine_vregs (code : FaultCode) (info : Word) : (faultedEngine code info e).vregs = e.vregs := rfl
@[simp] theorem faultedEngine_streams (code : FaultCode) (info : Word) : (faultedEngine code info e).streams = e.streams := rfl
@[simp] theorem faultedEngine_bus (code : FaultCode) (info : Word) : (faultedEngine code info e).bus = e.bus := rfl
@[simp] theorem faultedEngine_cfg (code : FaultCode) (info : Word) : (faultedEngine code info e).cfg = e.cfg := rfl

@[simp] theorem afterScript_regs (length : Nat) (script : List Exchange) : (afterScript length script e).regs = e.regs := rfl
@[simp] theorem afterScript_status (length : Nat) (script : List Exchange) : (afterScript length script e).status = e.status := rfl
@[simp] theorem afterScript_cable (length : Nat) (script : List Exchange) : (afterScript length script e).cable = driven (scriptClocks length e.tap.irCache script) e.cable := rfl
@[simp] theorem afterScript_tap (length : Nat) (script : List Exchange) : (afterScript length script e).tap = { e.tap with irCache := scriptCache e.tap.irCache script } := rfl
@[simp] theorem afterScript_session (length : Nat) (script : List Exchange) : (afterScript length script e).session = e.session := rfl
@[simp] theorem afterScript_flash (length : Nat) (script : List Exchange) : (afterScript length script e).flash = e.flash := rfl
@[simp] theorem afterScript_area (length : Nat) (script : List Exchange) : (afterScript length script e).area = e.area := rfl
@[simp] theorem afterScript_options (length : Nat) (script : List Exchange) : (afterScript length script e).options = e.options := rfl
@[simp] theorem afterScript_vregs (length : Nat) (script : List Exchange) : (afterScript length script e).vregs = e.vregs := rfl
@[simp] theorem afterScript_streams (length : Nat) (script : List Exchange) : (afterScript length script e).streams = e.streams := rfl
@[simp] theorem afterScript_bus (length : Nat) (script : List Exchange) : (afterScript length script e).bus = e.bus := rfl
@[simp] theorem afterScript_cfg (length : Nat) (script : List Exchange) : (afterScript length script e).cfg = e.cfg := rfl

@[simp] theorem afterBus_regs (length : Nat) (items : List (Access × Word)) : (afterBus length items e).regs = e.regs := rfl
@[simp] theorem afterBus_status (length : Nat) (items : List (Access × Word)) : (afterBus length items e).status = e.status := rfl
@[simp] theorem afterBus_cable (length : Nat) (items : List (Access × Word)) : (afterBus length items e).cable = driven (scriptClocks length e.tap.irCache (busScript e items)) e.cable := rfl
@[simp] theorem afterBus_tap (length : Nat) (items : List (Access × Word)) : (afterBus length items e).tap = { e.tap with irCache := scriptCache e.tap.irCache (busScript e items) } := rfl
@[simp] theorem afterBus_session (length : Nat) (items : List (Access × Word)) : (afterBus length items e).session = e.session := rfl
@[simp] theorem afterBus_flash (length : Nat) (items : List (Access × Word)) : (afterBus length items e).flash = e.flash := rfl
@[simp] theorem afterBus_area (length : Nat) (items : List (Access × Word)) : (afterBus length items e).area = e.area := rfl
@[simp] theorem afterBus_options (length : Nat) (items : List (Access × Word)) : (afterBus length items e).options = e.options := rfl
@[simp] theorem afterBus_vregs (length : Nat) (items : List (Access × Word)) : (afterBus length items e).vregs = e.vregs := rfl
@[simp] theorem afterBus_streams (length : Nat) (items : List (Access × Word)) : (afterBus length items e).streams = e.streams := rfl
@[simp] theorem afterBus_bus (length : Nat) (items : List (Access × Word)) : (afterBus length items e).bus = e.bus ++ items.map Prod.fst := rfl
@[simp] theorem afterBus_cfg (length : Nat) (items : List (Access × Word)) : (afterBus length items e).cfg = e.cfg := rfl

@[simp] theorem ending_toEngine (s : State) : (ending e s).toEngine = e := rfl
@[simp] theorem ending_running (s : State) : (ending e s).running = none := rfl
@[simp] theorem ending_host (s : State) : (ending e s).host = s.host := rfl

end Sys2Proof.Machine
end

