-- ==== Sys2Proof/Laws/Ops.lean ====
section
/-!
SUPPORT. How operations compose: what it takes for one to end with a value (`Ends`), along a script (`Does`), with a
fault (`Raises`), and what it keeps however it ends (`Keeps`); and one lemma per primitive operation.
-/

namespace Sys2Proof.Machine

/-! ## Composition -/

/-- The run an operation reached, however it ended. -/
def reached {α : Type} : EStateM.Result Stop Run α → Run
  | .ok _ r => r
  | .error _ r => r

/-- From engine `e` the operation ends with `x` in engine `e'`, driving `n` clocks. -/
def Ends {α : Type} (op : Op α) (e : Engine) (n : Nat) (x : α) (e' : Engine) : Prop :=
  ∀ b, n ≤ b → op { eng := e, budget := b } = .ok x { eng := e', budget := b - n }

/-- From engine `e` the operation takes a fault, with engine `e'` after it, having driven `n` clocks. -/
def Raises {α : Type} (op : Op α) (e : Engine) (n : Nat) (e' : Engine) : Prop :=
  ∀ b, n ≤ b → op { eng := e, budget := b } = .error .faulted { eng := e', budget := b - n }

/-- The operation keeps a property of the engine, however it ends. -/
def Keeps {α : Type} (P : Engine → Prop) (op : Op α) : Prop :=
  ∀ r, P r.eng → P (reached (op r)).eng

theorem bind_run {α β : Type} (op : Op α) (f : α → Op β) (r : Run) :
    (op >>= f) r = match op r with
      | .ok a r' => f a r'
      | .error s r' => .error s r' := by
  change EStateM.bind op f r = _
  unfold EStateM.bind
  cases op r <;> rfl

theorem pure_run {α : Type} (x : α) (r : Run) : (pure x : Op α) r = .ok x r := rfl

theorem Ends.pure {α : Type} (x : α) (e : Engine) : Ends (Pure.pure x : Op α) e 0 x e :=
  fun _ _ => rfl

theorem Ends.bind {α β : Type} {op : Op α} {f : α → Op β} {e e' e'' : Engine} {n m : Nat} {x : α} {y : β}
    (h : Ends op e n x e') (k : Ends (f x) e' m y e'') : Ends (op >>= f) e (n + m) y e'' := by
  intro b hb
  rw [bind_run, h b (by omega)]
  simp only
  rw [k (b - n) (by omega)]
  congr 2
  omega

theorem Ends.raises {α β : Type} {op : Op α} {f : α → Op β} {e e' e'' : Engine} {n m : Nat} {x : α}
    (h : Ends op e n x e') (k : Raises (f x) e' m e'') : Raises (op >>= f) e (n + m) e'' := by
  intro b hb
  rw [bind_run, h b (by omega)]
  simp only
  rw [k (b - n) (by omega)]
  congr 2
  omega

theorem Raises.bind {α β : Type} {op : Op α} {f : α → Op β} {e e' : Engine} {n : Nat}
    (h : Raises op e n e') : Raises (op >>= f) e n e' := by
  intro b hb
  rw [bind_run, h b hb]

theorem Keeps.pure {α : Type} {P : Engine → Prop} (x : α) : Keeps P (Pure.pure x : Op α) :=
  fun _ h => h

theorem Keeps.bind {α β : Type} {P : Engine → Prop} {op : Op α} {f : α → Op β}
    (h : Keeps P op) (k : ∀ x, Keeps P (f x)) : Keeps P (op >>= f) := by
  intro r hr
  have h1 := h r hr
  rw [bind_run]
  cases hop : op r with
  | ok a r' => rw [hop] at h1; exact k a r' h1
  | error s r' => rw [hop] at h1; exact h1

/-! ## Primitives -/

theorem getEngine_ends (e : Engine) : Ends getEngine e 0 e e :=
  fun _ _ => rfl

theorem getEngine_keeps {P : Engine → Prop} : Keeps P getEngine :=
  fun _ h => h

theorem modifyEngine_ends (f : Engine → Engine) (e : Engine) : Ends (modifyEngine f) e 0 () (f e) :=
  fun _ _ => rfl

theorem modifyEngine_keeps {P : Engine → Prop} {f : Engine → Engine} (h : ∀ e, P e → P (f e)) :
    Keeps P (modifyEngine f) :=
  fun r hr => h r.eng hr

theorem pauseHere_keeps {α : Type} {P : Engine → Prop} : Keeps P (pauseHere : Op α) :=
  fun _ h => h

theorem raiseFault_raises {α : Type} (code : FaultCode) (info : Word) (e : Engine) :
    Raises (raiseFault code info : Op α) e 0 (faultedEngine code info e) :=
  fun _ _ => rfl

theorem raiseFault_keeps {α : Type} {P : Engine → Prop} {code : FaultCode} {info : Word}
    (h : ∀ e, P e → P (faultedEngine code info e)) : Keeps P (raiseFault code info : Op α) :=
  fun r hr => h r.eng hr

theorem raiseWithCommand_raises {α : Type} (code : FaultCode) (e : Engine) :
    Raises (raiseWithCommand code : Op α) e 0 (faultedEngine code e.regs.cmd e) :=
  fun _ _ => rfl

theorem raiseWithCommand_keeps {α : Type} {P : Engine → Prop} {code : FaultCode}
    (h : ∀ e info, P e → P (faultedEngine code info e)) : Keeps P (raiseWithCommand code : Op α) :=
  fun r hr => h r.eng _ hr

/-- A run of clocks that the budget allows. -/
theorem driveClocks_ends (ks : List CableClock) (e : Engine) :
    Ends (driveClocks ks) e ks.length (runClocks ks e.cable).1 (setCable (driven ks) e) := by
  intro b hb
  simp only [driveClocks, if_pos hb]
  rfl

/-- A run of clocks that the budget does not allow: what it allows is driven. -/
theorem driveClocks_pauses (ks : List CableClock) (e : Engine) (b : Nat) (hb : b < ks.length) :
    driveClocks ks { eng := e, budget := b }
      = .error .paused { eng := setCable (driven (ks.take b)) e, budget := 0 } := by
  simp only [driveClocks, if_neg (Nat.not_le.mpr hb)]
  rfl

theorem driveClocks_keeps {P : Engine → Prop} (h : ∀ f e, P e → P (setCable f e)) (ks : List CableClock) :
    Keeps P (driveClocks ks) := by
  intro r hr
  rcases Nat.lt_or_ge r.budget ks.length with hb | hb
  · have := driveClocks_pauses ks r.eng r.budget hb
    rw [this]
    exact h _ _ hr
  · have := driveClocks_ends ks r.eng r.budget hb
    rw [this]
    exact h _ _ hr

/-! ## Scripts -/

/-- Along a script that the target answers as wanted, the operation ends with `x` in engine `e'`. -/
def Does {α : Type} (op : Op α) (length : Nat) (e : Engine) (script : List Exchange) (x : α) (e' : Engine) : Prop :=
  e.tap.irLength = some length → answered length e.cable 0 e.tap.irCache script = true →
    Ends op e (scriptClocks length e.tap.irCache script).length x e'

theorem scriptClocks_append (length : Nat) (cache : Option Word) (p q : List Exchange) :
    scriptClocks length cache (p ++ q)
      = scriptClocks length cache p ++ scriptClocks length (scriptCache cache p) q := by
  induction p generalizing cache with
  | nil => rfl
  | cons x p ih => cases x <;> simp [scriptClocks, scriptCache, ih]

theorem scriptCache_append (cache : Option Word) (p q : List Exchange) :
    scriptCache cache (p ++ q) = scriptCache (scriptCache cache p) q := by
  induction p generalizing cache with
  | nil => rfl
  | cons x p ih => cases x <;> simp [scriptCache, ih]

theorem answered_append (length : Nat) (c : Cable) (n : Nat) (cache : Option Word) (p q : List Exchange) :
    answered length c n cache (p ++ q)
      = (answered length c n cache p
          && answered length c (n + (scriptClocks length cache p).length) (scriptCache cache p) q) := by
  induction p generalizing n cache with
  | nil => simp [answered, scriptClocks, scriptCache]
  | cons x p ih =>
    cases x with
    | select code =>
      simp only [List.cons_append, answered, scriptClocks, scriptCache, ih]
      by_cases h : cache = some code <;> simp [h, Nat.add_assoc]
    | swap out wanted =>
      simp [answered, scriptClocks, scriptCache, ih, Bool.and_assoc, Nat.add_assoc]

theorem answered_driven (length : Nat) (c : Cable) (ks : List CableClock) (n : Nat) (cache : Option Word)
    (p : List Exchange) :
    answered length (driven ks c) n cache p = answered length c (ks.length + n) cache p := by
  induction p generalizing n cache with
  | nil => rfl
  | cons x p ih =>
    cases x with
    | select code =>
      simp only [answered, ih]
      by_cases h : cache = some code <;> simp [h, Nat.add_assoc]
    | swap out wanted => simp [answered, ih, replyAt_driven, Nat.add_assoc]

theorem afterScript_nil (length : Nat) (e : Engine) : afterScript length [] e = e := rfl

theorem afterScript_append (length : Nat) (p q : List Exchange) (e : Engine) :
    afterScript length (p ++ q) e = afterScript length q (afterScript length p e) := by
  simp only [afterScript, scriptClocks_append, scriptCache_append, driven_append]

/-- The engine `e'` has the cable and the TAP session that a script leaves. -/
def Tracks (length : Nat) (script : List Exchange) (e e' : Engine) : Prop :=
  e'.cable = (afterScript length script e).cable ∧ e'.tap = (afterScript length script e).tap

theorem Does.bind {α β : Type} {op : Op α} {f : α → Op β} {length : Nat} {e e' e'' : Engine}
    {p q : List Exchange} {x : α} {y : β} (h : Does op length e p x e') (t : Tracks length p e e')
    (k : Does (f x) length e' q y e'') : Does (op >>= f) length e (p ++ q) y e'' := by
  intro hl ha
  rw [answered_append, Bool.and_eq_true, Nat.zero_add] at ha
  rw [scriptClocks_append, List.length_append]
  have hc : scriptCache e.tap.irCache p = e'.tap.irCache := by rw [t.2]; rfl
  rw [hc]
  refine (h hl ha.1).bind (k (by rw [t.2]; exact hl) ?_)
  rw [t.1, afterScript_cable, answered_driven, ← hc]
  exact ha.2

/-- An operation without clocks, before a script. -/
theorem Does.after {α β : Type} {op : Op α} {f : α → Op β} {length : Nat} {e e' e'' : Engine}
    {q : List Exchange} {x : α} {y : β} (h : Ends op e 0 x e') (ht : e'.cable = e.cable ∧ e'.tap = e.tap)
    (k : Does (f x) length e' q y e'') : Does (op >>= f) length e q y e'' := by
  intro hl ha
  have k' := k (by rw [ht.2]; exact hl) (by rw [ht.1, ht.2]; exact ha)
  have := h.bind k'
  rw [ht.2] at this
  simpa using this

theorem Does.done {α : Type} (length : Nat) (x : α) (e : Engine) : Does (pure x : Op α) length e [] x e :=
  fun _ _ => Ends.pure x e

/-- SetIR along its script (40_tap.md R96). -/
theorem setIR_does (length : Nat) (code : Word) (e : Engine) :
    Does (setIR code) length e [.select code] () (afterScript length [.select code] e) := by
  intro hl _
  have start : Ends getEngine e 0 e e := getEngine_ends e
  by_cases h : e.tap.irCache = some code
  · have : afterScript length [.select code] e = e := by
      obtain ⟨_, _, _, ⟨cache, _⟩, _⟩ := e
      simp only at h
      subst h
      simp [afterScript, scriptClocks, scriptCache]
    rw [this]
    intro b _
    simp only [setIR, bind_run, getEngine, hl, if_pos h, scriptClocks, pure_run]
    rfl
  · intro b hb
    simp only [scriptClocks, if_neg h, List.append_nil] at hb ⊢
    have d := driveClocks_ends (irSequence length code) e b hb
    simp only [setIR, bind_run, getEngine, hl, if_neg h, d]
    simp only [modifyEngine, afterScript, scriptClocks, if_neg h, List.append_nil, scriptCache]
    rfl

/-- RWData along its script (40_tap.md R98). -/
theorem rwData_does (length : Nat) (v : Word) (wanted : Word → Bool) (e : Engine) :
    Does (rwData v) length e [.swap v wanted] (replyAt e.cable 0) (afterScript length [.swap v wanted] e) := by
  intro _ _ b hb
  simp only [scriptClocks, List.append_nil] at hb ⊢
  have d := driveClocks_ends (drSequence v) e b hb
  simp only [rwData, bind_run, d, pure_run, captured_drSequence]
  simp only [afterScript, scriptClocks, scriptCache, List.append_nil]
  rfl

/-- What the answer to a script's first RWData is wanted to be, it is. -/
theorem wanted_of_answered {length : Nat} {c : Cable} {cache : Option Word} {v : Word} {wanted : Word → Bool}
    {rest : List Exchange} (h : answered length c 0 cache (.swap v wanted :: rest) = true) :
    wanted (replyAt c 0) = true := by
  simp only [answered, Bool.and_eq_true] at h
  exact h.1

/-- RWData whose answer is fixed by the script. -/
theorem rwData_exactly (length : Nat) (v d : Word) (e : Engine) :
    Does (rwData v) length e [.swap v (exactly d)] d (afterScript length [.swap v (exactly d)] e) := by
  intro hl ha
  have hd : replyAt e.cable 0 = d := by
    have := wanted_of_answered ha
    simpa [exactly] using this
  have := rwData_does length v (exactly d) e hl ha
  rwa [hd] at this

/-- A poll whose body's first value is ready. -/
theorem pollUntil_does {α : Type} {length : Nat} {site : Word} {body : Op α} {ready : α → Bool}
    {e e' : Engine} {p : List Exchange} {x : α} (h : Does body length e p x e')
    (hr : e.tap.irLength = some length → answered length e.cable 0 e.tap.irCache p = true → ready x = true) :
    Does (pollUntil site body ready) length e p x e' := by
  intro hl ha b hb
  have hx := hr hl ha
  simp only [pollUntil, pollLoop, bind_run, h hl ha b hb, hx, if_true, pure_run]

end Sys2Proof.Machine
end

