-- ==== Sys2Proof/Laws/Access.lean ====
section
/-!
SUPPORT. The frame every command runs in, the DMA accesses and the turns of the executor, each along its script.
-/

namespace Sys2Proof.Machine

/-! ## The frame of a command -/

/-- The clocks and the engine an accepted command starts with. -/
theorem startPoint_idle {i : Instr} {s : State} (h : s.running = none) :
    startPoint i s = (s.toEngine, clocksAllowed s) := by
  simp only [startPoint, h, clocksAllowed]

theorem runCommand_accepting {i : Instr} {c : CommandClass} {body : Op Unit} {s : State} (h : accepting s) :
    runCommand i c body s
      = .next (settle i s s.toEngine (clocksAllowed s)
          ((do checkClass c; body : Op Unit) { eng := s.toEngine, budget := clocksAllowed s })) := by
  simp only [runCommand, startPoint_idle h.1, h.2, Bool.false_and, Bool.false_eq_true, if_false]

/-- A command whose checks pass and whose operation ends within the clocks of the step. -/
theorem runCommand_ends {i : Instr} {c : CommandClass} {body : Op Unit} {s : State} {n : Nat} {e' : Engine}
    (h : accepting s) (hc : Ends (checkClass c) s.toEngine 0 () s.toEngine)
    (hb : Ends body s.toEngine n () e') (hn : n ≤ clocksAllowed s) :
    runCommand i c body s = .next (ending e' s) := by
  rw [runCommand_accepting h, (hc.bind hb) _ (by omega)]
  rfl

/-- A command whose checks or operation take a fault within the clocks of the step. -/
theorem runCommand_raises {i : Instr} {c : CommandClass} {body : Op Unit} {s : State} {n : Nat} {e' : Engine}
    (h : accepting s) (hb : Raises (do checkClass c; body : Op Unit) s.toEngine n e') (hn : n ≤ clocksAllowed s) :
    runCommand i c body s = .next (ending e' s) := by
  rw [runCommand_accepting h, hb _ hn]
  rfl

/-- While FAULTED = 1 a command that may not run changes nothing (60_exceptions.md R191). -/
theorem runCommand_refused {i : Instr} {c : CommandClass} {body : Op Unit} {s : State} (hr : s.running = none)
    (hf : s.status.faulted = true) (hi : runsWhileFaulted i = false) : runCommand i c body s = .next s := by
  simp only [runCommand, startPoint_idle hr, hf, hi, Bool.not_false, Bool.and_true, if_true]
  rw [← hr]

theorem checkClass_irUsing {length : Nat} {s : State} (h : ready length s) :
    Ends (checkClass .irUsing) s.toEngine 0 () s.toEngine := by
  intro b _
  have hs := h.2.1
  have hl := h.2.2
  simp only [checkClass, requireIdleTap, requireIrLength, bind_run, getEngine, hs, if_true, pure_run, hl]
  rfl

theorem checkClass_drOnly {s : State} (h : s.cable.shadow = some .runTestIdle) :
    Ends (checkClass .drOnly) s.toEngine 0 () s.toEngine := by
  intro b _
  simp only [checkClass, requireIdleTap, bind_run, getEngine, h, if_true, pure_run]
  rfl

/-- An IR-using command that ends along a script. -/
theorem runCommand_does {i : Instr} {body : Op Unit} {s : State} {length : Nat} {script : List Exchange}
    {e' : Engine} (h : ready length s) (hb : Does body length s.toEngine script () e')
    (hf : follows length script s) : runCommand i .irUsing body s = .next (ending e' s) :=
  runCommand_ends h.1 (checkClass_irUsing h) (hb h.2.2 hf.1) hf.2

/-! ## Following a script -/

theorem Does.congr {α : Type} {op : Op α} {length : Nat} {e e' e'' : Engine} {p q : List Exchange} {x : α}
    (h : Does op length e p x e') (hp : p = q) (he : e' = e'') : Does op length e q x e'' := by
  subst hp he
  exact h

/-- The value an operation ends with, by another name. -/
theorem Does.value {α : Type} {op : Op α} {length : Nat} {e e' : Engine} {p : List Exchange} {x y : α}
    (hxy : x = y) (h : Does op length e p x e') : Does op length e p y e' :=
  hxy ▸ h

/-- A script's answers may be used while it is followed. -/
theorem Does.assuming {α : Type} {op : Op α} {length : Nat} {e e' : Engine} {p : List Exchange} {x : α}
    (h : answered length e.cable 0 e.tap.irCache p = true → Does op length e p x e') :
    Does op length e p x e' :=
  fun hl ha => h ha hl ha

/-- What the answer to an RWData further on in a script is wanted to be, it is. -/
theorem wanted_after {length : Nat} {e : Engine} {v : Word} {wanted : Word → Bool} {rest : List Exchange}
    (p : List Exchange) (h : answered length e.cable 0 e.tap.irCache (p ++ .swap v wanted :: rest) = true) :
    wanted (replyAt (Machine.afterScript length p e).cable 0) = true := by
  rw [answered_append, Bool.and_eq_true, Nat.zero_add] at h
  rw [afterScript_cable, replyAt_driven]
  have := h.2
  simp only [answered, Bool.and_eq_true] at this
  exact this.1

theorem Tracks.afterScript (length : Nat) (p : List Exchange) (e : Engine) :
    Tracks length p e (afterScript length p e) :=
  ⟨rfl, rfl⟩

/-- Binding after an operation that leaves exactly what its script leaves. -/
theorem Does.step {α β : Type} {op : Op α} {f : α → Op β} {length : Nat} {e e'' : Engine}
    {p q : List Exchange} {x : α} {y : β} (h : Does op length e p x (afterScript length p e))
    (k : Does (f x) length (afterScript length p e) q y e'') : Does (op >>= f) length e (p ++ q) y e'' :=
  h.bind (Tracks.afterScript length p e) k

/-- Reading the engine before an operation along a script. -/
theorem Does.get {β : Type} {f : Engine → Op β} {length : Nat} {e e'' : Engine} {q : List Exchange} {y : β}
    (k : Does (f e) length e q y e'') : Does (getEngine >>= f) length e q y e'' :=
  Does.after (getEngine_ends e) ⟨rfl, rfl⟩ k

/-- Changing a field that is neither the cable nor the TAP session. -/
theorem Does.modify {β : Type} {g : Engine → Engine} {f : Unit → Op β} {length : Nat} {e e'' : Engine}
    {q : List Exchange} {y : β} (hg : (g e).cable = e.cable ∧ (g e).tap = e.tap)
    (k : Does (f ()) length (g e) q y e'') : Does (modifyEngine g >>= f) length e q y e'' :=
  Does.after (modifyEngine_ends g e) hg k

theorem Does.last {length : Nat} (g : Engine → Engine) (e : Engine) :
    Does (modifyEngine g) length e [] () (g e) :=
  fun _ _ => modifyEngine_ends g e

theorem selectControl_does (length : Nat) (e : Engine) :
    Does selectControl length e [.select e.cfg.ir.control] ()
      (afterScript length [.select e.cfg.ir.control] e) :=
  Does.get (setIR_does length e.cfg.ir.control e)

theorem selectAddress_does (length : Nat) (e : Engine) :
    Does selectAddress length e [.select e.cfg.ir.address] ()
      (afterScript length [.select e.cfg.ir.address] e) :=
  Does.get (setIR_does length e.cfg.ir.address e)

theorem selectData_does (length : Nat) (e : Engine) :
    Does selectData length e [.select e.cfg.ir.data] () (afterScript length [.select e.cfg.ir.data] e) :=
  Does.get (setIR_does length e.cfg.ir.data e)

/-! ## DMA accesses (41_memory_access.md R114) -/

/-- A poll's bound that is not reached lets it go on (60_exceptions.md R193). -/
theorem checkTimeout_ends {n : Nat} {site : Word} {e : Engine} (h : ∀ bound, pollBound e.cfg = some bound → n < bound) :
    Ends (checkTimeout n site) e 0 () e := by
  refine (getEngine_ends e).bind (m := 0) ?_
  cases hb : pollBound e.cfg with
  | none => exact Ends.pure () e
  | some bound =>
    simp only [if_neg (Nat.not_le.mpr (h bound hb))]
    exact Ends.pure () e

/-- The loop of a poll of RWData whose first `turns` turns are not ready and whose next one is. -/
theorem pollLoop_rwData {length : Nat} {v site : Word} {ready busy done : Word → Bool}
    (h0 : ∀ w, busy w = true → ready w = false) (h1 : ∀ w, done w = true → ready w = true) (turns : Nat) :
    ∀ (fuel i : Nat) (e : Engine), turns < fuel → (∀ bound, pollBound e.cfg = some bound → i + turns < bound) →
      Does (pollLoop site (rwData v) ready fuel i) length e (List.replicate turns (.swap v busy) ++ [.swap v done])
        (replyAt e.cable (37 * turns))
        (afterScript length (List.replicate turns (.swap v busy) ++ [.swap v done]) e) := by
  induction turns with
  | zero =>
    intro fuel i e hf _
    obtain ⟨fuel, rfl⟩ : ∃ k, fuel = k + 1 := ⟨fuel - 1, by omega⟩
    simp only [List.replicate_zero, List.nil_append, Nat.mul_zero]
    refine Does.assuming fun ha => ?_
    have hr := h1 _ (wanted_of_answered ha)
    have value : Does (if ready (replyAt e.cable 0) then pure (replyAt e.cable 0) else do
        checkTimeout (i + 1) site
        pollLoop site (rwData v) ready fuel (i + 1)) length (afterScript length [.swap v done] e) []
        (replyAt e.cable 0) (afterScript length [.swap v done] e) := by
      rw [if_pos hr]
      exact Does.done length _ _
    exact Does.step (rwData_does length v done e) value
  | succ turns ih =>
    intro fuel i e hf hp
    obtain ⟨fuel, rfl⟩ : ∃ k, fuel = k + 1 := ⟨fuel - 1, by omega⟩
    refine Does.assuming fun ha => ?_
    have hr := h0 _ (wanted_of_answered ha)
    have later : ∀ bound, pollBound e.cfg = some bound → i + 1 + turns < bound := fun bound hb => by
      have := hp bound hb
      omega
    have go := ih fuel (i + 1) (afterScript length [.swap v busy] e) (by omega)
      (by simpa only [afterScript_cfg] using later)
    have value : replyAt (afterScript length [.swap v busy] e).cable (37 * turns)
        = replyAt e.cable (37 * (turns + 1)) := by
      rw [afterScript_cable, replyAt_driven]
      congr 1
      simp [scriptClocks, drSequence_length]
      omega
    have rest : Does (if ready (replyAt e.cable 0) then pure (replyAt e.cable 0) else do
        checkTimeout (i + 1) site
        pollLoop site (rwData v) ready fuel (i + 1)) length (afterScript length [.swap v busy] e)
        (List.replicate turns (.swap v busy) ++ [.swap v done]) (replyAt e.cable (37 * (turns + 1)))
        (afterScript length (List.replicate turns (.swap v busy) ++ [.swap v done])
          (afterScript length [.swap v busy] e)) := by
      simp only [hr, Bool.false_eq_true, if_false]
      refine Does.after (checkTimeout_ends ?_) ⟨rfl, rfl⟩ (Does.value value go)
      simp only [afterScript_cfg]
      exact fun bound hb => Nat.lt_of_le_of_lt (by omega) (later bound hb)
    have cut : List.replicate (turns + 1) (Exchange.swap v busy) ++ [.swap v done]
        = [.swap v busy] ++ (List.replicate turns (.swap v busy) ++ [.swap v done]) := rfl
    rw [cut, afterScript_append]
    exact Does.step (rwData_does length v busy e) rest

theorem pollUntil_rwData {length : Nat} {v site : Word} {ready busy done : Word → Bool} {e : Engine}
    (h0 : ∀ w, busy w = true → ready w = false) (h1 : ∀ w, done w = true → ready w = true) (turns : Nat)
    (hp : patient e.cfg turns) :
    Does (pollUntil site (rwData v) ready) length e (List.replicate turns (.swap v busy) ++ [.swap v done])
      (replyAt e.cable (37 * turns))
      (afterScript length (List.replicate turns (.swap v busy) ++ [.swap v done]) e) := by
  intro hl ha b hb
  have clocks : turns < b + 1 := by
    have : ∀ n c, (scriptClocks length c (List.replicate n (.swap v busy) ++ [.swap v done])).length = 37 * (n + 1) := by
      intro n c
      induction n with
      | zero => simp [scriptClocks, drSequence_length]
      | succ n ih =>
        simp only [List.replicate_succ, List.cons_append, scriptClocks, List.length_append, ih, drSequence_length]
        omega
    rw [this] at hb
    omega
  exact pollLoop_rwData h0 h1 turns (b + 1) 0 e clocks (fun bound h => by have := hp bound h; omega) hl ha b hb

/-- The DSTRT poll, ready after `turns` turns that are not (41_memory_access.md R114). -/
theorem waitDma_does (length : Nat) (turns : Nat) (addr : Word) (e : Engine) (hp : patient e.cfg turns) :
    Does (waitDma addr) length e (pollScript e.cfg (skipsDstrtPoll e.cfg e.session) turns) ()
      (afterScript length (pollScript e.cfg (skipsDstrtPoll e.cfg e.session) turns) e) := by
  refine Does.get ?_
  by_cases h : skipsDstrtPoll e.cfg e.session = true
  · simp only [h, if_true, pollScript]
    exact Does.done length () e
  · simp only [h, Bool.false_eq_true, if_false, pollScript, dstrtTurn]
    refine (Does.step (q := []) (pollUntil_rwData (busy := bitIs e.cfg.ctl.dstrt true)
      (done := bitIs e.cfg.ctl.dstrt false) ?_ ?_ turns hp) (Does.done length () _)).congr (List.append_nil _) rfl
    · intro w hw
      simp only [bitIs, beq_iff_eq] at hw
      simp only [hw, Bool.not_true]
    · intro w hw
      simp only [bitIs, beq_iff_eq] at hw
      simp only [hw, Bool.not_false]

/-- A poll that is ready at once gives up under no bound, since a bound is at least 1 (00_scope.md R6). -/
theorem patient_zero (p : Params) : patient p 0 := by
  intro bound h
  simp only [pollBound, Option.map_eq_some_iff] at h
  obtain ⟨n, _, rfl⟩ := h
  omega

theorem endDma_does (length : Nat) (derr : Bool) (e : Engine) :
    Does endDma length e (endScript e.cfg derr) derr (afterScript length (endScript e.cfg derr) e) := by
  refine Does.assuming fun ha => ?_
  have hd := wanted_after [Exchange.select e.cfg.ir.control] ha
  simp only [bitIs, beq_iff_eq] at hd
  unfold endDma
  refine Does.congr (Does.step (selectControl_does length e) (Does.get (Does.step
    (rwData_does length (ctlDmaEnd e.cfg.ctl) (bitIs e.cfg.ctl.derr derr) _) (Does.value hd (Does.done length _ _))))) rfl ?_
  simp only [← afterScript_append, endScript, List.cons_append, List.nil_append]

/-- One attempt of a DMA read. -/
theorem dmaReadAttempt_does (length turns : Nat) (derr : Bool) (addr d : Word) (width : Width) (e : Engine)
    (hp : patient e.cfg turns) :
    Does (dmaReadAttempt addr width) length e
      (attemptScript e.cfg (skipsDstrtPoll e.cfg e.session) turns derr (.read width addr, d)) (d, derr)
      (afterScript length (attemptScript e.cfg (skipsDstrtPoll e.cfg e.session) turns derr (.read width addr, d)) e) := by
  unfold dmaReadAttempt
  refine Does.congr (Does.step (selectAddress_does length e)
    (Does.step (rwData_does length addr anyReply _)
      (Does.step (selectControl_does length _)
        (Does.get (Does.step (rwData_does length (ctlDmaRead e.cfg.ctl width) anyReply _)
          (Does.step (waitDma_does length turns addr _ (by simpa only [afterScript_cfg] using hp))
            (Does.step (selectData_does length _)
              (Does.step (rwData_exactly length 0#32 d _)
                (Does.step (endDma_does length derr _) (Does.done length (d, derr) _)))))))))) ?_ ?_
  · simp [attemptScript, startScript]
  · simp only [afterScript_cfg, afterScript_session]
    simp only [← afterScript_append, attemptScript, startScript, List.append_assoc, List.cons_append, List.nil_append]

/-- One attempt of a DMA write. -/
theorem dmaWriteAttempt_does (length turns : Nat) (derr : Bool) (addr v d : Word) (width : Width) (e : Engine)
    (hp : patient e.cfg turns) :
    Does (dmaWriteAttempt addr width v) length e
      (attemptScript e.cfg (skipsDstrtPoll e.cfg e.session) turns derr (.write width addr (busValue width v), d)) (0#32, derr)
      (afterScript length
        (attemptScript e.cfg (skipsDstrtPoll e.cfg e.session) turns derr (.write width addr (busValue width v), d)) e) := by
  unfold dmaWriteAttempt
  refine Does.congr (Does.step (selectAddress_does length e)
    (Does.step (rwData_does length addr anyReply _)
      (Does.step (selectData_does length _)
        (Does.step (rwData_does length (busValue width v) anyReply _)
          (Does.step (selectControl_does length _)
            (Does.get (Does.step (rwData_does length (ctlDmaWrite e.cfg.ctl width) anyReply _)
              (Does.step (waitDma_does length turns addr _ (by simpa only [afterScript_cfg] using hp))
                (Does.step (endDma_does length derr _) (Does.done length (0#32, derr) _)))))))))) ?_ ?_
  · simp [attemptScript, startScript]
  · simp only [afterScript_cfg, afterScript_session]
    simp only [← afterScript_append, attemptScript, startScript, List.cons_append, List.nil_append]

/-- A first attempt that does not fail is the only one. -/
theorem dmaAttempts_first {attempt : Op (Word × Bool)} {length : Nat} {e e' : Engine} {p : List Exchange}
    {d : Word} (n : Nat) (h : Does attempt length e p (d, false) e') :
    Does (dmaAttempts attempt (n + 1)) length e p d e' := by
  intro hl ha b hb
  simp only [dmaAttempts, bind_run, h hl ha b hb, Bool.false_eq_true, if_false, pure_run]

/-! ## Sequences of DMA accesses -/

theorem busScript_append (e : Engine) (xs ys : List (Access × Word)) :
    busScript e (xs ++ ys) = busScript e xs ++ busScript e ys := by
  simp only [busScript, List.flatMap_append]

theorem busScript_congr {e e' : Engine} (hc : e'.cfg = e.cfg) (hs : e'.session = e.session)
    (items : List (Access × Word)) : busScript e' items = busScript e items := by
  simp only [busScript, hc, hs]

theorem afterBus_nil (length : Nat) (e : Engine) : afterBus length [] e = e := by
  simp [afterBus, busScript, afterScript, scriptClocks, scriptCache]

theorem afterBus_append (length : Nat) (xs ys : List (Access × Word)) (e : Engine) :
    afterBus length (xs ++ ys) e = afterBus length ys (afterBus length xs e) := by
  have h : busScript (afterBus length xs e) ys = busScript e ys := busScript_congr rfl rfl ys
  simp only [afterBus] at h ⊢
  simp only [h, busScript_append, afterScript_append, List.map_append, List.append_assoc]
  rfl

/-- With the DMA strategy selected, the operation issues these accesses, in this order, and ends with `x` in engine
`e'`, if the target answers each at once. -/
def Issues {α : Type} (op : Op α) (length : Nat) (e : Engine) (items : List (Access × Word)) (x : α)
    (e' : Engine) : Prop :=
  e.session.useDma = true → Does op length e (busScript e items) x e'

/-- The engine `e'` agrees with what a sequence of accesses leaves, in all that a further access depends on. -/
def Continues (length : Nat) (items : List (Access × Word)) (e e' : Engine) : Prop :=
  e'.cable = (afterBus length items e).cable ∧ e'.tap = (afterBus length items e).tap
    ∧ e'.cfg = e.cfg ∧ e'.session = e.session

theorem Continues.afterBus (length : Nat) (items : List (Access × Word)) (e : Engine) :
    Continues length items e (afterBus length items e) :=
  ⟨rfl, rfl, rfl, rfl⟩

theorem Issues.bind {α β : Type} {op : Op α} {f : α → Op β} {length : Nat} {e e' e'' : Engine}
    {xs ys : List (Access × Word)} {x : α} {y : β} (h : Issues op length e xs x e')
    (t : Continues length xs e e') (k : Issues (f x) length e' ys y e'') :
    Issues (op >>= f) length e (xs ++ ys) y e'' := by
  intro hd
  have k' := k (by rw [t.2.2.2]; exact hd)
  rw [busScript_congr t.2.2.1 t.2.2.2] at k'
  rw [busScript_append]
  exact (h hd).bind ⟨t.1, t.2.1⟩ k'

/-- Binding after accesses that change nothing else. -/
theorem Issues.step {α β : Type} {op : Op α} {f : α → Op β} {length : Nat} {e e'' : Engine}
    {xs ys : List (Access × Word)} {x : α} {y : β} (h : Issues op length e xs x (afterBus length xs e))
    (k : Issues (f x) length (Machine.afterBus length xs e) ys y e'') :
    Issues (op >>= f) length e (xs ++ ys) y e'' :=
  h.bind (Continues.afterBus length xs e) k

theorem Issues.congr {α : Type} {op : Op α} {length : Nat} {e e' e'' : Engine} {xs ys : List (Access × Word)}
    {x : α} (h : Issues op length e xs x e') (hx : xs = ys) (he : e' = e'') : Issues op length e ys x e'' := by
  subst hx he
  exact h

theorem Issues.done {α : Type} (length : Nat) (x : α) (e : Engine) : Issues (pure x : Op α) length e [] x e :=
  fun _ => Does.done length x e

theorem Issues.get {β : Type} {f : Engine → Op β} {length : Nat} {e e'' : Engine}
    {ys : List (Access × Word)} {y : β} (k : Issues (f e) length e ys y e'') :
    Issues (getEngine >>= f) length e ys y e'' :=
  fun hd => Does.get (k hd)

theorem Issues.modify {β : Type} {g : Engine → Engine} {f : Unit → Op β} {length : Nat} {e e'' : Engine}
    {ys : List (Access × Word)} {y : β}
    (hg : (g e).cable = e.cable ∧ (g e).tap = e.tap ∧ (g e).cfg = e.cfg ∧ (g e).session = e.session)
    (k : Issues (f ()) length (g e) ys y e'') : Issues (modifyEngine g >>= f) length e ys y e'' := by
  intro hd
  have k' := k (by rw [hg.2.2.2]; exact hd)
  rw [busScript_congr hg.2.2.1 hg.2.2.2] at k'
  exact Does.modify ⟨hg.1, hg.2.1⟩ k'

theorem Issues.last {length : Nat} (g : Engine → Engine) (e : Engine) :
    Issues (modifyEngine g) length e [] () (g e) :=
  fun _ => Does.last g e

/-- One DMA read that succeeds (41_memory_access.md R114). -/
theorem dmaRead_does (length : Nat) (addr d : Word) (width : Width) (e : Engine) :
    Does (dmaRead addr width) length e (busScript e [(.read width addr, d)]) (readDatum e.cfg width addr d)
      (afterBus length [(.read width addr, d)] e) := by
  unfold dmaRead
  refine Does.modify ⟨rfl, rfl⟩ ?_
  have first := dmaAttempts_first 15 (dmaReadAttempt_does length 0 false addr d width
    (recordAccess (.read width addr) e) (patient_zero _))
  cases width
  all_goals
    refine Does.congr (Does.step first (Does.get (Does.done length _ _))) ?_ ?_
    · simp [busScript, dmaScript]
    · simp only [afterBus, busScript, dmaScript, List.flatMap_cons, List.flatMap_nil, List.append_nil]
      rfl

/-- One DMA write that succeeds (41_memory_access.md R114). -/
theorem dmaWrite_does (length : Nat) (addr v d : Word) (width : Width) (e : Engine) :
    Does (dmaWrite addr width v) length e (busScript e [(.write width addr (busValue width v), d)]) ()
      (afterBus length [(.write width addr (busValue width v), d)] e) := by
  unfold dmaWrite
  refine Does.modify ⟨rfl, rfl⟩ (Does.congr
    (Does.step (dmaAttempts_first 15 (dmaWriteAttempt_does length 0 false addr v d width _ (patient_zero _))) (Does.done length () _)) ?_ ?_)
  · simp [busScript, dmaScript]
  · simp only [afterBus, busScript, dmaScript, List.flatMap_cons, List.flatMap_nil, List.append_nil]
    rfl

theorem memRead_issues (length : Nat) (addr d : Word) (width : Width) (e : Engine) :
    Issues (memRead addr width) length e [(.read width addr, d)] (readDatum e.cfg width addr d)
      (afterBus length [(.read width addr, d)] e) := by
  intro hd
  refine Does.get ?_
  simp only [hd, if_true]
  exact dmaRead_does length addr d width e

theorem memWrite_issues (length : Nat) (addr v d : Word) (width : Width) (e : Engine) :
    Issues (memWrite addr width v) length e [(.write width addr (busValue width v), d)] ()
      (afterBus length [(.write width addr (busValue width v), d)] e) := by
  intro hd
  refine Does.get ?_
  simp only [hd, if_true]
  exact dmaWrite_does length addr v d width e

theorem lowHalf_zext (h : Half) : lowHalf (zext h) = h := by
  simp only [lowHalf, zext]
  apply BitVec.eq_of_toNat_eq
  have := h.isLt
  simp only [BitVec.extractLsb'_toNat, BitVec.toNat_setWidth, Nat.shiftRight_zero]
  omega

theorem norWrite_issues (length : Nat) (addr : Word) (h : Half) (e : Engine) :
    Issues (norWrite addr h) length e [cycle addr h] () (afterBus length [cycle addr h] e) := by
  have := memWrite_issues length addr (zext h) 0#32 .half e
  simp only [busValue, lowHalf_zext] at this
  exact this

theorem norRead_issues (length : Nat) (addr d : Word) (e : Engine) :
    Issues (norRead addr) length e [(.read .half addr, d)] (lane e.cfg.endian addr d)
      (afterBus length [(.read .half addr, d)] e) := by
  unfold norRead
  rw [← lowHalf_zext (lane e.cfg.endian addr d)]
  exact Issues.step (ys := []) (memRead_issues length addr d .half e) (Issues.done length _ _)

/-- A poll of an access whose first value is ready. -/
theorem pollUntil_issues {α : Type} {length : Nat} {site : Word} {body : Op α} {ready : α → Bool}
    {e e' : Engine} {xs : List (Access × Word)} {x : α} (h : Issues body length e xs x e')
    (hr : ready x = true) : Issues (pollUntil site body ready) length e xs x e' :=
  fun hd => pollUntil_does (h hd) (fun _ _ => hr)

/-- An IR-using command that ends along a sequence of DMA accesses. -/
theorem runCommand_issues {i : Instr} {body : Op Unit} {s : State} {length : Nat} {items : List (Access × Word)}
    {e' : Engine} (h : ready length s) (hb : Issues body length s.toEngine items () e')
    (hf : serves length items s) : runCommand i .irUsing body s = .next (ending e' s) :=
  runCommand_does h (hb hf.1) hf.2

end Sys2Proof.Machine
end

