-- ==== Sys2Proof/Laws/Answers.lean ====
section
/-!
SUPPORT. A target that answers a script with given words: the TDO bits it has to return, and that a script whose
answers they are is followed. The witnesses of the statements are built with it.
-/

namespace Sys2Proof.Machine

/-- The TDO bits of one RWData that returns `d`. -/
def swapBits (d : Word) : List Bool :=
  [false, false, false] ++ (List.range 32).map d.getLsbD ++ [false, false]

/-- The TDO bits of a script whose exchanges return the words `ds`, one after the other. -/
def scriptBits (length : Nat) : Option Word → List Exchange → List Word → List Bool
  | _, [], _ => []
  | cache, .select code :: rest, ds =>
      (if cache = some code then [] else List.replicate (length + 6) false) ++ scriptBits length (some code) rest ds
  | cache, .swap _ _ :: rest, ds => swapBits (ds.headD 0#32) ++ scriptBits length cache rest ds.tail

/-- Whether the words `ds` are answers the script wants. -/
def wantedWords : List Exchange → List Word → Bool
  | [], _ => true
  | .select _ :: rest, ds => wantedWords rest ds
  | .swap _ wanted :: rest, ds => wanted (ds.headD 0#32) && wantedWords rest ds.tail

/-- The state in which the target is about to answer a script with the words `ds`. -/
def answering (length : Nat) (script : List Exchange) (ds : List Word) (s : State) : State :=
  { s with cable := { s.cable with tdoIn := scriptBits length s.tap.irCache script ds } }

theorem natOfBits_testBit (l : List Bool) (i : Nat) : (natOfBits l).testBit i = l.getD i false := by
  induction l generalizing i with
  | nil => simp [natOfBits]
  | cons b rest ih =>
    cases i with
    | zero => cases b <;> simp [natOfBits, Nat.testBit_zero, Nat.add_mod]
    | succ i =>
      have : (b.toNat + 2 * natOfBits rest) / 2 = natOfBits rest := by
        cases b
        · simp
        · simp only [Bool.toNat_true]
          omega
      rw [natOfBits, Nat.testBit_succ, this, ih]
      simp

theorem capturedWord_swapBits (d : Word) : capturedWord (swapBits d) = d := by
  apply BitVec.eq_of_getLsbD_eq
  intro i hi
  have shift : ((swapBits d).drop 3).take 32 = (List.range 32).map d.getLsbD := by
    simp [swapBits]
  rw [capturedWord, shift, BitVec.getLsbD_ofNat, natOfBits_testBit]
  simp [hi]

/-- A word whose bits come up in the TDO list is captured. -/
theorem replyAt_swapBits {c : Cable} {before after : List Bool} {d : Word}
    (h : c.tdoIn = before ++ (swapBits d ++ after)) : replyAt c before.length = d := by
  have same : (List.range 37).map (fun i => tdoAt c (before.length + i)) = swapBits d := by
    apply List.ext_getElem
    · simp [swapBits]
    · intro i h1 h2
      have hi : c.tdoIn[before.length + i]? = some (swapBits d)[i] := by
        rw [h, List.getElem?_append_right (by omega), Nat.add_sub_cancel_left, List.getElem?_append_left h2]
        exact List.getElem?_eq_getElem h2
      simp [tdoAt, hi]
  rw [replyAt, same, capturedWord_swapBits]

theorem answered_scriptBits (length : Nat) (c : Cable) (script : List Exchange) (cache : Option Word)
    (ds : List Word) (before : List Bool) (h : c.tdoIn = before ++ scriptBits length cache script ds)
    (hw : wantedWords script ds = true) : answered length c before.length cache script = true := by
  induction script generalizing cache ds before with
  | nil => rfl
  | cons x rest ih =>
    cases x with
    | select code =>
      simp only [scriptBits, wantedWords] at h hw
      simp only [answered]
      by_cases hc : cache = some code
      · simp only [if_pos hc, List.nil_append] at h ⊢
        exact ih (some code) ds before h hw
      · simp only [if_neg hc] at h ⊢
        have := ih (some code) ds (before ++ List.replicate (length + 6) false) (by rw [h, List.append_assoc]) hw
        simpa using this
    | swap out wanted =>
      simp only [scriptBits, wantedWords, Bool.and_eq_true] at h hw
      have next := ih cache ds.tail (before ++ swapBits (ds.headD 0#32)) (by rw [h, List.append_assoc]) hw.2
      have len : (before ++ swapBits (ds.headD 0#32)).length = before.length + 37 := by simp [swapBits]
      simp only [answered, Bool.and_eq_true, replyAt_swapBits h]
      exact ⟨hw.1, len ▸ next⟩

theorem scriptClocks_length_le (length : Nat) (script : List Exchange) (cache : Option Word) :
    (scriptClocks length cache script).length ≤ script.length * (length + 37) := by
  induction script generalizing cache with
  | nil => exact Nat.zero_le _
  | cons x rest ih =>
    cases x with
    | select code =>
      have := ih (some code)
      simp only [scriptClocks, List.length_append, List.length_cons, Nat.add_mul, Nat.one_mul]
      split <;> simp <;> omega
    | swap out wanted =>
      have := ih cache
      simp only [scriptClocks, List.length_append, List.length_cons, drSequence_length, Nat.add_mul, Nat.one_mul]
      omega

/-- A script is followed by a target that answers it with wanted words. -/
theorem follows_answering {length : Nat} {script : List Exchange} {ds : List Word} {s : State}
    (hw : wantedWords script ds = true) (hn : script.length * (length + 37) ≤ clocksAllowed s) :
    follows length script (answering length script ds s) :=
  ⟨answered_scriptBits length _ script _ ds [] rfl hw, Nat.le_trans (scriptClocks_length_le _ _ _) hn⟩

/-- The words with which the target answers one DMA access that succeeds at once. -/
def busWords : List (Access × Word) → List Word
  | [] => []
  | (.read _ _, d) :: rest => [0#32, 0#32, 0#32, d, 0#32] ++ busWords rest
  | (.write _ _ _, _) :: rest => [0#32, 0#32, 0#32, 0#32, 0#32] ++ busWords rest

/-- The state in which the target is about to serve DMA accesses. -/
def serving (length : Nat) (items : List (Access × Word)) (s : State) : State :=
  answering length (busScript s.toEngine items) (busWords items) s

theorem wantedWords_bus (e : Engine) (items : List (Access × Word))
    (h : skipsDstrtPoll e.cfg e.session = false) : wantedWords (busScript e items) (busWords items) = true := by
  induction items with
  | nil => rfl
  | cons x rest ih =>
    have cons : busScript e (x :: rest) = dmaScript e.cfg false x ++ busScript e rest := by
      simp [busScript, h]
    rw [cons]
    obtain ⟨a, d⟩ := x
    cases a <;>
      simp [dmaScript, attemptScript, startScript, pollScript, dstrtTurn, endScript, wantedWords, busWords, anyReply, bitIs, exactly, ih]

theorem busScript_length_le (e : Engine) (items : List (Access × Word)) :
    (busScript e items).length ≤ items.length * 9 := by
  induction items with
  | nil => exact Nat.le_refl 0
  | cons x rest ih =>
    have cons : busScript e (x :: rest) = dmaScript e.cfg (skipsDstrtPoll e.cfg e.session) x ++ busScript e rest := by
      simp [busScript]
    obtain ⟨a, d⟩ := x
    rw [cons, List.length_append, List.length_cons]
    have : (dmaScript e.cfg (skipsDstrtPoll e.cfg e.session) (a, d)).length ≤ 9 := by
      cases a <;> cases skipsDstrtPoll e.cfg e.session <;>
        simp [dmaScript, attemptScript, startScript, pollScript, endScript]
    omega

/-- DMA accesses are served by a target about to serve them. -/
theorem serves_serving {length : Nat} {items : List (Access × Word)} {s : State} (hd : s.session.useDma = true)
    (hk : skipsDstrtPoll s.cfg s.session = false) (hn : items.length * 9 * (length + 37) ≤ clocksAllowed s) :
    serves length items (serving length items s) :=
  ⟨hd, follows_answering (wantedWords_bus s.toEngine items hk)
    (Nat.le_trans (Nat.mul_le_mul_right _ (busScript_length_le s.toEngine items)) hn)⟩

end Sys2Proof.Machine
end

