-- ==== Sys2Proof/Laws/Flash.lean ====
section
/-!
SUPPORT. The flash sequencers along the accesses they issue: each operation of 44_flash_parallel.md and
45_flash_spi.md with the list it issues and the engine it leaves.
-/

namespace Sys2Proof.Machine

/-! ## Accesses do not depend on the other fields -/

theorem afterBus_setFlash (length : Nat) (items : List (Access × Word)) (f : Flash → Flash) (e : Engine) :
    afterBus length items (setFlash f e) = setFlash f (afterBus length items e) := rfl

theorem afterBus_setStatus (length : Nat) (items : List (Access × Word)) (f : Status → Status) (e : Engine) :
    afterBus length items (setStatus f e) = setStatus f (afterBus length items e) := rfl

theorem afterBus_setArea (length : Nat) (items : List (Access × Word)) (f : Area → Area) (e : Engine) :
    afterBus length items (setArea f e) = setArea f (afterBus length items e) := rfl

theorem afterBus_setStreams (length : Nat) (items : List (Access × Word)) (f : Streams → Streams) (e : Engine) :
    afterBus length items (setStreams f e) = setStreams f (afterBus length items e) := rfl

/-! ## Cycles -/

theorem offsetCycle_issues (length : Nat) (offset : Word) (d : Half) (e : Engine) :
    Issues (offsetCycle offset d) length e [offsetItem e offset d] ()
      (afterBus length [offsetItem e offset d] e) :=
  Issues.get (norWrite_issues length (norAddress e.flash.base offset) d e)

theorem baseCycle_issues (length : Nat) (d : Half) (e : Engine) :
    Issues (baseCycle d) length e [cycle e.flash.base d] () (afterBus length [cycle e.flash.base d] e) :=
  Issues.get (norWrite_issues length e.flash.base d e)

theorem partCommands_issues (length : Nat) (e : Engine) :
    Issues partCommands length e [] (partTable e) e :=
  Issues.get (Issues.done length (partTable e) e)

/-- Accesses before further ones, when the first ones are none. -/
theorem Issues.after {α β : Type} {op : Op α} {f : α → Op β} {length : Nat} {e e'' : Engine}
    {ys : List (Access × Word)} {x : α} {y : β} (h : Issues op length e [] x e)
    (k : Issues (f x) length e ys y e'') : Issues (op >>= f) length e ys y e'' :=
  Issues.bind (xs := []) h ⟨by rw [afterBus_nil], by rw [afterBus_nil], rfl, rfl⟩ k

/-- Accesses, then more, when neither changes anything else. -/
theorem Issues.next {α β : Type} {op : Op α} {f : α → Op β} {length : Nat} {e : Engine}
    {xs ys : List (Access × Word)} {x : α} {y : β} (h : Issues op length e xs x (afterBus length xs e))
    (k : Issues (f x) length (Machine.afterBus length xs e) ys y
      (Machine.afterBus length ys (Machine.afterBus length xs e))) :
    Issues (op >>= f) length e (xs ++ ys) y (Machine.afterBus length (xs ++ ys) e) := by
  rw [afterBus_append]
  exact Issues.step h k

/-- Two engines that agree in all an access depends on, or changes. -/
def SameBus (e e' : Engine) : Prop :=
  e'.cable = e.cable ∧ e'.tap = e.tap ∧ e'.cfg = e.cfg ∧ e'.session = e.session

/-- Accesses, then more, from an engine that has also changed otherwise. -/
theorem Issues.also {α β : Type} {op : Op α} {f : α → Op β} {length : Nat} {e e' e'' : Engine}
    {xs ys : List (Access × Word)} {x : α} {y : β} (h : Issues op length e xs x (afterBus length xs e'))
    (he : SameBus e e')
    (k : Issues (f x) length (Machine.afterBus length xs e') ys y
      (Machine.afterBus length ys (Machine.afterBus length xs e''))) :
    Issues (op >>= f) length e (xs ++ ys) y (Machine.afterBus length (xs ++ ys) e'') := by
  rw [afterBus_append]
  have hb : busScript e' xs = busScript e xs := busScript_congr he.2.2.1 he.2.2.2 xs
  refine Issues.bind h ⟨?_, ?_, ?_, ?_⟩ k
  · simp only [afterBus_cable, hb, he.1, he.2.1]
  · simp only [afterBus_tap, hb, he.2.1]
  · exact he.2.2.1
  · exact he.2.2.2

/-- The engine with bypass mode recorded as left. -/
def bypassOff (e : Engine) : Engine :=
  setFlash (fun f => { f with bypassActive := false }) e

/-- The engine with bypass mode recorded as entered. -/
def bypassOn (e : Engine) : Engine :=
  setFlash (fun f => { f with bypassActive := true }) e

theorem sameBus_bypassOff (e : Engine) : SameBus e (bypassOff e) := ⟨rfl, rfl, rfl, rfl⟩
theorem sameBus_bypassOn (e : Engine) : SameBus e (bypassOn e) := ⟨rfl, rfl, rfl, rfl⟩

theorem bypassOff_same {e : Engine} (h : ¬e.flash.bypassActive = true) : bypassOff e = e := by
  obtain ⟨_, _, _, _, _, ⟨_, _, _, _, _, _, _, _, _⟩, _⟩ := e
  simp only [Bool.not_eq_true] at h
  simp only [bypassOff, setFlash, h]

theorem bypassOn_same {e : Engine} (h : e.flash.bypassActive = true) : bypassOn e = e := by
  obtain ⟨_, _, _, _, _, ⟨_, _, _, _, _, _, _, _, _⟩, _⟩ := e
  simp only at h
  simp only [bypassOn, setFlash, h]

theorem amdUnlock1_issues (length : Nat) (t : AmdCommands) (e : Engine) :
    Issues (amdUnlock1 t) length e [offsetItem e t.unlock1Offset t.unlock1] ()
      (afterBus length [offsetItem e t.unlock1Offset t.unlock1] e) :=
  offsetCycle_issues length t.unlock1Offset t.unlock1 e

theorem amdUnlock2_issues (length : Nat) (t : AmdCommands) (e : Engine) :
    Issues (amdUnlock2 t) length e [offsetItem e t.unlock2Offset t.unlock2] ()
      (afterBus length [offsetItem e t.unlock2Offset t.unlock2] e) :=
  offsetCycle_issues length t.unlock2Offset t.unlock2 e

/-- The two unlock cycles. -/
theorem amdUnlock_issues (length : Nat) (t : AmdCommands) (e : Engine) :
    Issues (amdUnlock t) length e
      [offsetItem e t.unlock1Offset t.unlock1, offsetItem e t.unlock2Offset t.unlock2] ()
      (afterBus length [offsetItem e t.unlock1Offset t.unlock1, offsetItem e t.unlock2Offset t.unlock2] e) :=
  Issues.next (amdUnlock1_issues length t e) (amdUnlock2_issues length t _)

/-- The two unlock cycles and one more at the first offset. -/
theorem unlockThen_issues {op : Op Unit} (length : Nat) (d : Half) (e : Engine)
    (h : ∀ e', Issues op length e' [offsetItem e' (partTable e).unlock1Offset d] ()
      (afterBus length [offsetItem e' (partTable e).unlock1Offset d] e')) :
    Issues (do amdUnlock (partTable e); op : Op Unit) length e (unlockItems e d) ()
      (afterBus length (unlockItems e d) e) :=
  Issues.next (amdUnlock_issues length (partTable e) e) (h _)

/-! ## The other single cycles -/

theorem amdAutoselect_issues (length : Nat) (t : AmdCommands) (e : Engine) :
    Issues (amdAutoselect t) length e [offsetItem e t.unlock1Offset t.autoselect] ()
      (afterBus length [offsetItem e t.unlock1Offset t.autoselect] e) :=
  offsetCycle_issues length t.unlock1Offset t.autoselect e

theorem amdEraseSetup_issues (length : Nat) (t : AmdCommands) (e : Engine) :
    Issues (amdEraseSetup t) length e [offsetItem e t.unlock1Offset t.eraseSetup] ()
      (afterBus length [offsetItem e t.unlock1Offset t.eraseSetup] e) :=
  offsetCycle_issues length t.unlock1Offset t.eraseSetup e

theorem amdProgram_issues (length : Nat) (t : AmdCommands) (e : Engine) :
    Issues (amdProgram t) length e [offsetItem e t.unlock1Offset t.program] ()
      (afterBus length [offsetItem e t.unlock1Offset t.program] e) :=
  offsetCycle_issues length t.unlock1Offset t.program e

theorem amdBypassEnter_issues (length : Nat) (t : AmdCommands) (e : Engine) :
    Issues (amdBypassEnter t) length e [offsetItem e t.unlock1Offset t.bypassEnter] ()
      (afterBus length [offsetItem e t.unlock1Offset t.bypassEnter] e) :=
  offsetCycle_issues length t.unlock1Offset t.bypassEnter e

theorem amdSectorErase_issues (length : Nat) (t : AmdCommands) (a : Word) (e : Engine) :
    Issues (amdSectorErase t a) length e [cycle a t.sectorErase] ()
      (afterBus length [cycle a t.sectorErase] e) :=
  norWrite_issues length a t.sectorErase e

theorem amdBypassProgram_issues (length : Nat) (t : AmdCommands) (e : Engine) :
    Issues (amdBypassProgram t) length e [cycle e.flash.base t.bypassProgram] ()
      (afterBus length [cycle e.flash.base t.bypassProgram] e) :=
  baseCycle_issues length t.bypassProgram e

theorem amdBypassExit1_issues (length : Nat) (t : AmdCommands) (e : Engine) :
    Issues (amdBypassExit1 t) length e [cycle e.flash.base t.bypassExit1] ()
      (afterBus length [cycle e.flash.base t.bypassExit1] e) :=
  baseCycle_issues length t.bypassExit1 e

theorem amdBypassExit2_issues (length : Nat) (t : AmdCommands) (e : Engine) :
    Issues (amdBypassExit2 t) length e [cycle e.flash.base t.bypassExit2] ()
      (afterBus length [cycle e.flash.base t.bypassExit2] e) :=
  baseCycle_issues length t.bypassExit2 e

theorem amdReset_issues (length : Nat) (t : AmdCommands) (e : Engine) :
    Issues (amdReset t) length e [cycle e.flash.base t.reset] ()
      (afterBus length [cycle e.flash.base t.reset] e) :=
  baseCycle_issues length t.reset e

theorem bscClearStatus_issues (length : Nat) (a : Word) (e : Engine) :
    Issues (bscClearStatus a) length e [cycle a e.cfg.bsc.clearStatus] () (afterBus length [cycle a e.cfg.bsc.clearStatus] e) :=
  Issues.get (norWrite_issues length a e.cfg.bsc.clearStatus e)

theorem bscUnlockSetup_issues (length : Nat) (a : Word) (e : Engine) :
    Issues (bscUnlockSetup a) length e [cycle a e.cfg.bsc.unlockSetup] () (afterBus length [cycle a e.cfg.bsc.unlockSetup] e) :=
  Issues.get (norWrite_issues length a e.cfg.bsc.unlockSetup e)

theorem bscConfirm_issues (length : Nat) (a : Word) (e : Engine) :
    Issues (bscConfirm a) length e [cycle a e.cfg.bsc.confirm] () (afterBus length [cycle a e.cfg.bsc.confirm] e) :=
  Issues.get (norWrite_issues length a e.cfg.bsc.confirm e)

theorem bscEraseSetup_issues (length : Nat) (a : Word) (e : Engine) :
    Issues (bscEraseSetup a) length e [cycle a e.cfg.bsc.eraseSetup] () (afterBus length [cycle a e.cfg.bsc.eraseSetup] e) :=
  Issues.get (norWrite_issues length a e.cfg.bsc.eraseSetup e)

theorem bscReadStatus_issues (length : Nat) (a : Word) (e : Engine) :
    Issues (bscReadStatus a) length e [cycle a e.cfg.bsc.readStatus] () (afterBus length [cycle a e.cfg.bsc.readStatus] e) :=
  Issues.get (norWrite_issues length a e.cfg.bsc.readStatus e)

theorem bscProgramSetup_issues (length : Nat) (a : Word) (e : Engine) :
    Issues (bscProgramSetup a) length e [cycle a e.cfg.bsc.programSetup] () (afterBus length [cycle a e.cfg.bsc.programSetup] e) :=
  Issues.get (norWrite_issues length a e.cfg.bsc.programSetup e)

theorem bscReadId_issues (length : Nat) (e : Engine) :
    Issues bscReadId length e [cycle e.flash.base e.cfg.bsc.readId] ()
      (afterBus length [cycle e.flash.base e.cfg.bsc.readId] e) :=
  Issues.get (baseCycle_issues length e.cfg.bsc.readId e)

theorem bscReadArray_issues (length : Nat) (e : Engine) :
    Issues bscReadArray length e [cycle e.flash.base e.cfg.bsc.readArray] ()
      (afterBus length [cycle e.flash.base e.cfg.bsc.readArray] e) :=
  Issues.get (baseCycle_issues length e.cfg.bsc.readArray e)

/-! ## Bypass and reset-to-read -/

/-- BypassEnter (44_flash_parallel.md R169). -/
theorem bypassEnter_issues (length : Nat) (e : Engine) :
    Issues bypassEnter length e (enterItems e) () (afterBus length (enterItems e) (bypassOn e)) := by
  refine Issues.get ?_
  by_cases h : e.flash.bypassActive = true
  · simp only [h, if_true, enterItems, bypassOn_same h]
    exact Issues.congr (Issues.done length () e) rfl (afterBus_nil length e).symm
  · simp only [h, Bool.false_eq_true, if_false, enterItems]
    refine Issues.after (partCommands_issues length e) ?_
    refine Issues.congr (Issues.step (amdUnlock_issues length _ e)
      (Issues.step (amdBypassEnter_issues length _ _) (Issues.last _ _))) ?_ ?_
    · rfl
    · rw [← afterBus_append]
      rfl

/-- BypassExit (44_flash_parallel.md R170). -/
theorem bypassExit_issues (length : Nat) (e : Engine) :
    Issues bypassExit length e (exitItems e) () (afterBus length (exitItems e) (bypassOff e)) := by
  refine Issues.get ?_
  by_cases h : e.flash.bypassActive = true
  · simp only [h, if_true, exitItems]
    refine Issues.after (partCommands_issues length e) ?_
    refine Issues.congr (Issues.step (amdBypassExit1_issues length _ e)
      (Issues.step (amdBypassExit2_issues length _ _) (Issues.last _ _))) ?_ ?_
    · rfl
    · rw [← afterBus_append]
      rfl
  · simp only [h, Bool.false_eq_true, if_false, exitItems, bypassOff_same h]
    exact Issues.congr (Issues.done length () e) rfl (afterBus_nil length e).symm

theorem partTable_amd {e : Engine} (h : e.flash.cmdType = some .amd) : partTable e = e.cfg.amd := by
  simp [partTable, h]

theorem partTable_sst {e : Engine} (h : e.flash.cmdType = some .sst) : partTable e = e.cfg.sst := by
  simp [partTable, h]

theorem resetItems_amd {e : Engine} (h : amdStyle e) : resetItems e = [cycle e.flash.base (partTable e).reset] := by
  rcases h with h | h
  · simp only [resetItems, h, partTable_amd h]
  · simp only [resetItems, h, partTable_sst h]

/-- Reset-to-read of an AMD-style part, from outside or inside bypass mode (44_flash_parallel.md R168). -/
theorem flashResetRead_amd (length : Nat) (e : Engine) (h : amdStyle e) :
    Issues flashResetRead length e (exitItems e ++ resetItems e) ()
      (afterBus length (exitItems e ++ resetItems e) (bypassOff e)) := by
  have body : Issues resetReadAmd length e (exitItems e ++ resetItems e) ()
      (afterBus length (exitItems e ++ resetItems e) (bypassOff e)) := by
    rw [resetItems_amd h]
    exact Issues.also (bypassExit_issues length e) (sameBus_bypassOff e)
      (Issues.after (partCommands_issues length _) (amdReset_issues length (partTable e) _))
  refine Issues.get ?_
  rcases h with h | h <;> simp only [h] <;> exact body

/-- Reset-to-read of an Intel-style part (44_flash_parallel.md R168). -/
theorem flashResetRead_bsc (length : Nat) (e : Engine) (h : bscStyle e) :
    Issues flashResetRead length e (resetItems e) () (afterBus length (resetItems e) e) := by
  refine Issues.get ?_
  rcases h with h | h <;> simp only [h, resetItems] <;> exact bscReadArray_issues length e

/-- Reset-to-read of an SPI part: nothing (45_flash_spi.md R178). -/
theorem flashResetRead_spi (length : Nat) (e : Engine) (h : e.flash.cmdType = some .spi) :
    Issues flashResetRead length e [] () e := by
  refine Issues.get ?_
  simp only [h]
  exact Issues.done length () e

/-! ## SPI transactions (45_flash_spi.md R172, R173) -/

theorem spiStart_issues (length : Nat) (l : SpiLayout) (op : SpiOp) (e : Engine) :
    Issues (spiStart l op) length e [(.write .word l.ctrlReg (l.start ||| spiCode l.code op), 0#32)] ()
      (afterBus length [(.write .word l.ctrlReg (l.start ||| spiCode l.code op), 0#32)] e) :=
  memWrite_issues length l.ctrlReg (l.start ||| spiCode l.code op) 0#32 .word e

theorem spiWaitBusy_issues (length : Nat) (l : SpiLayout) (free : Word) (e : Engine)
    (h : free.getLsbD l.busyBit = false) :
    Issues (spiWaitBusy l) length e [(.read .word l.ctrlReg, free)] ()
      (afterBus length [(.read .word l.ctrlReg, free)] e) := by
  refine Issues.congr (Issues.step (pollUntil_issues (memRead_issues length l.ctrlReg free .word e) ?_)
    (Issues.done length () _)) rfl rfl
  simp only [readDatum, h, Bool.not_false]

/-- The start of a transaction and its busy poll. -/
theorem spiRun_issues (length : Nat) (l : SpiLayout) (op : SpiOp) (free : Word) (e : Engine)
    (h : free.getLsbD l.busyBit = false) :
    Issues (do spiStart l op; spiWaitBusy l : Op Unit) length e (startItems l (spiCode l.code op) free) ()
      (afterBus length (startItems l (spiCode l.code op) free) e) :=
  Issues.next (spiStart_issues length l op e) (spiWaitBusy_issues length l free _ h)

/-- A transaction with neither address nor data. -/
theorem spiBare_issues (length : Nat) (l : SpiLayout) (op : SpiOp) (free : Word) (e : Engine)
    (h : free.getLsbD l.busyBit = false) :
    Issues (spiTransaction l op none none) length e (startItems l (spiCode l.code op) free) ()
      (afterBus length (startItems l (spiCode l.code op) free) e) :=
  Issues.after (Issues.done length () e) (Issues.after (Issues.done length () e)
    (spiRun_issues length l op free e h))

/-- A transaction with an address. -/
theorem spiAddressed_issues (length : Nat) (l : SpiLayout) (op : SpiOp) (free a : Word) (e : Engine)
    (h : free.getLsbD l.busyBit = false) :
    Issues (spiTransaction l op (some a) none) length e
      ([(.write .word l.addrReg a, 0#32)] ++ startItems l (spiCode l.code op) free) ()
      (afterBus length ([(.write .word l.addrReg a, 0#32)] ++ startItems l (spiCode l.code op) free) e) :=
  Issues.next (memWrite_issues length l.addrReg a 0#32 .word e)
    (Issues.after (Issues.done length () _) (spiRun_issues length l op free _ h))

/-- A transaction with an address and data. -/
theorem spiFull_issues (length : Nat) (l : SpiLayout) (op : SpiOp) (free a d : Word) (e : Engine)
    (h : free.getLsbD l.busyBit = false) :
    Issues (spiTransaction l op (some a) (some d)) length e
      ([(.write .word l.addrReg a, 0#32)]
        ++ ([(.write .word l.dataReg d, 0#32)] ++ startItems l (spiCode l.code op) free)) ()
      (afterBus length ([(.write .word l.addrReg a, 0#32)]
        ++ ([(.write .word l.dataReg d, 0#32)] ++ startItems l (spiCode l.code op) free)) e) :=
  Issues.next (memWrite_issues length l.addrReg a 0#32 .word e)
    (Issues.next (memWrite_issues length l.dataReg d 0#32 .word _) (spiRun_issues length l op free _ h))

/-- A transaction that reads the data register. -/
theorem spiQuery_issues (length : Nat) (l : SpiLayout) (op : SpiOp) (free v : Word) (e : Engine)
    (h : free.getLsbD l.busyBit = false) :
    Issues (spiQuery l op) length e (startItems l (spiCode l.code op) free ++ [(.read .word l.dataReg, v)]) v
      (afterBus length (startItems l (spiCode l.code op) free ++ [(.read .word l.dataReg, v)]) e) :=
  Issues.next (spiBare_issues length l op free e h) (memRead_issues length l.dataReg v .word _)

/-- SpiWaitWip, with WIP = 0 at the first status read (45_flash_spi.md R173). -/
theorem spiWaitWip_issues (length : Nat) (l : SpiLayout) (free status : Word) (e : Engine)
    (h : free.getLsbD l.busyBit = false) (hw : status.getLsbD e.cfg.wipBit = false) :
    Issues (spiWaitWip l) length e (wipItems l free status) ()
      (afterBus length (wipItems l free status) e) := by
  refine Issues.get (Issues.congr (Issues.step
    (pollUntil_issues (spiQuery_issues length l .rdsr free status e h) ?_) (Issues.done length () _)) ?_ rfl)
  · simp only [hw, Bool.not_false]
  · rw [List.append_nil]
    rfl

/-- The layout operation of a session that has one. -/
theorem withSpiLayout_issues {α : Type} {f : SpiLayout → Op α} {length : Nat} {e e' : Engine}
    {items : List (Access × Word)} {x : α} (h : e.session.spiLayout ≠ none)
    (k : Issues (f (sessionLayout e)) length e items x e') : Issues (withSpiLayout f) length e items x e' := by
  refine Issues.get ?_
  simp only [sessionLayout] at k
  cases hx : e.session.spiLayout with
  | none => exact absurd hx h
  | some y =>
    rw [hx] at k
    cases y <;> exact k

/-! ## Erase (44_flash_parallel.md R161-R164, 45_flash_spi.md R174) -/

/-- The two-stage erase of an AMD-style part, its status read showing DQ7 = 1. -/
theorem eraseAmd_issues (length : Nat) (a r : Word) (e : Engine)
    (h : (lane e.cfg.endian a r).getLsbD e.cfg.nor.amdReady = true) :
    Issues (eraseAmd (partTable e) a) length e
      (unlockItems e (partTable e).eraseSetup
        ++ [offsetItem e (partTable e).unlock1Offset (partTable e).unlock1,
            offsetItem e (partTable e).unlock2Offset (partTable e).unlock2,
            cycle a (partTable e).sectorErase, (.read .half a, r)]) ()
      (afterBus length (unlockItems e (partTable e).eraseSetup
        ++ [offsetItem e (partTable e).unlock1Offset (partTable e).unlock1,
            offsetItem e (partTable e).unlock2Offset (partTable e).unlock2,
            cycle a (partTable e).sectorErase, (.read .half a, r)]) e) := by
  have wait : ∀ e' : Engine, e'.cfg = e.cfg → Issues (waitAmdErase a) length e' [(.read .half a, r)] ()
      (afterBus length [(.read .half a, r)] e') := by
    intro e' he
    refine Issues.get (Issues.congr (Issues.step
      (pollUntil_issues (norRead_issues length a r e') ?_) (Issues.done length () _)) rfl rfl)
    rw [he]
    exact h
  unfold eraseAmd
  refine Issues.congr (Issues.next (amdUnlock_issues length (partTable e) e)
    (Issues.next (amdEraseSetup_issues length (partTable e) _)
      (Issues.next (amdUnlock_issues length (partTable e) _)
        (Issues.next (amdSectorErase_issues length (partTable e) a _) (wait _ ?_))))) ?_ ?_ <;>
    simp only [afterBus_cfg, afterBus_flash, offsetItem, unlockItems, List.cons_append, List.nil_append]

theorem waitBscReady_issues (length : Nat) (a r : Word) (e : Engine)
    (h : (lane e.cfg.endian a r).getLsbD e.cfg.nor.bscReady = true) :
    Issues (waitBscReady a) length e [(.read .half a, r)] () (afterBus length [(.read .half a, r)] e) :=
  Issues.get (Issues.congr (Issues.step (pollUntil_issues (norRead_issues length a r e) h)
    (Issues.done length () _)) rfl rfl)

/-- The two-stage erase of an Intel-style part, each status read showing bit 7 = 1. -/
theorem eraseBsc_issues (length : Nat) (a r1 r2 : Word) (e : Engine)
    (h1 : (lane e.cfg.endian a r1).getLsbD e.cfg.nor.bscReady = true)
    (h2 : (lane e.cfg.endian a r2).getLsbD e.cfg.nor.bscReady = true) :
    Issues (eraseBsc a) length e
      [cycle a e.cfg.bsc.clearStatus, cycle a e.cfg.bsc.unlockSetup, cycle a e.cfg.bsc.confirm,
       cycle a e.cfg.bsc.readStatus, (.read .half a, r1),
       cycle a e.cfg.bsc.clearStatus, cycle a e.cfg.bsc.eraseSetup, cycle a e.cfg.bsc.confirm,
       cycle a e.cfg.bsc.readStatus, (.read .half a, r2)] ()
      (afterBus length [cycle a e.cfg.bsc.clearStatus, cycle a e.cfg.bsc.unlockSetup, cycle a e.cfg.bsc.confirm,
       cycle a e.cfg.bsc.readStatus, (.read .half a, r1),
       cycle a e.cfg.bsc.clearStatus, cycle a e.cfg.bsc.eraseSetup, cycle a e.cfg.bsc.confirm,
       cycle a e.cfg.bsc.readStatus, (.read .half a, r2)] e) := by
  have wait := waitBscReady_issues length a
  unfold eraseBsc
  refine Issues.congr (Issues.next (bscClearStatus_issues length a e) (Issues.next (bscUnlockSetup_issues length a _)
    (Issues.next (bscConfirm_issues length a _) (Issues.next (bscReadStatus_issues length a _)
      (Issues.next (wait r1 _ h1)
        (Issues.next (bscClearStatus_issues length a _) (Issues.next (bscEraseSetup_issues length a _)
          (Issues.next (bscConfirm_issues length a _)
            (Issues.next (bscReadStatus_issues length a _) (wait r2 _ h2)))))))))) ?_ ?_ <;>
    simp only [afterBus_cfg, List.cons_append, List.nil_append]

/-- SpiAddr and a whole SPI change: WREN, the transaction, the WIP poll (45_flash_spi.md R174, R175). -/
theorem eraseSpi_issues (length : Nat) (a free status : Word) (e : Engine) (hl : e.session.spiLayout ≠ none)
    (h : free.getLsbD (sessionLayout e).busyBit = false) (hw : status.getLsbD e.cfg.wipBit = false) :
    Issues (eraseSpi a) length e
      (spiChangeItems (sessionLayout e)
        [(.write .word (sessionLayout e).addrReg ((a - e.flash.base) &&& 0x00FFFFFF#32), 0#32)]
        (sessionLayout e).code.se free status) ()
      (afterBus length (spiChangeItems (sessionLayout e)
        [(.write .word (sessionLayout e).addrReg ((a - e.flash.base) &&& 0x00FFFFFF#32), 0#32)]
        (sessionLayout e).code.se free status) e) := by
  refine Issues.get (withSpiLayout_issues hl ?_)
  refine Issues.congr (Issues.next (spiBare_issues length (sessionLayout e) .wren free e h)
    (Issues.next (spiAddressed_issues length (sessionLayout e) .se free (spiAddress e.flash.base a) _ h)
      (spiWaitWip_issues length (sessionLayout e) free status _ h hw))) ?_ ?_ <;>
    simp only [spiChangeItems, spiCode, spiAddress, List.append_assoc]

theorem programSpi_issues (length : Nat) (a w free status : Word) (e : Engine) (hl : e.session.spiLayout ≠ none)
    (h : free.getLsbD (sessionLayout e).busyBit = false) (hw : status.getLsbD e.cfg.wipBit = false) :
    Issues (programSpi a w) length e
      (spiChangeItems (sessionLayout e)
        [(.write .word (sessionLayout e).addrReg ((a - e.flash.base) &&& 0x00FFFFFF#32), 0#32),
         (.write .word (sessionLayout e).dataReg w, 0#32)]
        (sessionLayout e).code.pp free status) ()
      (afterBus length (spiChangeItems (sessionLayout e)
        [(.write .word (sessionLayout e).addrReg ((a - e.flash.base) &&& 0x00FFFFFF#32), 0#32),
         (.write .word (sessionLayout e).dataReg w, 0#32)]
        (sessionLayout e).code.pp free status) e) := by
  refine Issues.get (withSpiLayout_issues hl ?_)
  refine Issues.congr (Issues.next (spiBare_issues length (sessionLayout e) .wren free e h)
    (Issues.next (spiFull_issues length (sessionLayout e) .pp free (spiAddress e.flash.base a) w _ h)
      (spiWaitWip_issues length (sessionLayout e) free status _ h hw))) ?_ ?_ <;>
    simp only [spiChangeItems, spiCode, spiAddress, List.append_assoc, List.cons_append, List.nil_append]

/-- The erase of one block is that of the part's family (44_flash_parallel.md R161). -/
theorem eraseByKind_bsc {length : Nat} {a : Word} {e e' : Engine} {items : List (Access × Word)} (hk : bscStyle e)
    (h : Issues (eraseBsc a) length e items () e') : Issues (eraseByKind a) length e items () e' :=
  Issues.get (by rcases hk with hk | hk <;> simpa only [hk] using h)

theorem eraseByKind_spi {length : Nat} {a : Word} {e e' : Engine} {items : List (Access × Word)}
    (hk : e.flash.cmdType = some .spi) (h : Issues (eraseSpi a) length e items () e') :
    Issues (eraseByKind a) length e items () e' :=
  Issues.get (by simpa only [hk] using h)

theorem eraseByKind_amd {length : Nat} {a : Word} {e e' : Engine} {items : List (Access × Word)} (hk : amdStyle e)
    (h : Issues (do bypassExit; eraseAmd (partTable e) a : Op Unit) length e items () e') :
    Issues (eraseByKind a) length e items () e' :=
  Issues.get (by
    rcases hk with hk | hk
    · rw [partTable_amd hk] at h
      simpa only [hk] using h
    · rw [partTable_sst hk] at h
      simpa only [hk] using h)

/-- The block erase of an Intel-style part. -/
theorem eraseBlock_bsc (length : Nat) (a r1 r2 free : Word) (e : Engine) (hk : bscStyle e)
    (h : eraseReady e a r1 r2 free) :
    Issues (eraseBlock a) length e (eraseItems e a r1 r2 free) ()
      (afterBus length (eraseItems e a r1 r2 free) e) := by
  have hr : (lane e.cfg.endian a r1).getLsbD e.cfg.nor.bscReady = true
      ∧ (lane e.cfg.endian a r2).getLsbD e.cfg.nor.bscReady = true := by
    rcases hk with hk | hk <;> simpa only [eraseReady, hk] using h
  refine Issues.congr (Issues.next (eraseByKind_bsc hk (eraseBsc_issues length a r1 r2 e hr.1 hr.2))
    (flashResetRead_bsc length _ hk)) ?_ ?_ <;>
    rcases hk with hk | hk <;> simp only [eraseItems, hk, resetItems, afterBus_flash, afterBus_cfg]

/-- The block erase of an SPI part (45_flash_spi.md R174). -/
theorem eraseBlock_spi (length : Nat) (a r1 r2 free : Word) (e : Engine) (hk : spiStyle e)
    (h : eraseReady e a r1 r2 free) :
    Issues (eraseBlock a) length e (eraseItems e a r1 r2 free) ()
      (afterBus length (eraseItems e a r1 r2 free) e) := by
  obtain ⟨hk, hl⟩ := hk
  simp only [eraseReady, hk] at h
  refine Issues.congr (Issues.step (eraseByKind_spi hk (eraseSpi_issues length a free r1 e hl h.1 h.2))
    (flashResetRead_spi length _ hk)) ?_ ?_
  · simp only [eraseItems, hk, resetItems]
  · simp only [eraseItems, hk, resetItems, List.append_nil]

theorem exitItems_off {e : Engine} (h : ¬e.flash.bypassActive = true) : exitItems e = [] := if_neg h

/-- The accesses of an erase do not depend on the cable, nor on the bypass bit. -/
theorem eraseItems_congr {e e' : Engine} (hc : e'.cfg = e.cfg) (hb : e'.flash.base = e.flash.base)
    (hk : e'.flash.cmdType = e.flash.cmdType) (hl : e'.session = e.session) (a r1 r2 free : Word) :
    eraseItems e' a r1 r2 free = eraseItems e a r1 r2 free := by
  simp only [eraseItems, unlockItems, offsetItem, partTable, sessionLayout, resetItems, hc, hb, hk, hl]

/-- The block erase of an AMD-style part outside bypass mode. -/
theorem eraseBlock_amd_off (length : Nat) (a r1 r2 free : Word) (e : Engine) (hk : amdStyle e)
    (hb : ¬e.flash.bypassActive = true) (h : eraseReady e a r1 r2 free) :
    Issues (eraseBlock a) length e (eraseItems e a r1 r2 free) ()
      (afterBus length (eraseItems e a r1 r2 free) e) := by
  have hr : (lane e.cfg.endian a r1).getLsbD e.cfg.nor.amdReady = true := by
    rcases hk with hk | hk <;> simpa only [eraseReady, hk] using h
  have exits : Issues bypassExit length e [] () e := by
    have := bypassExit_issues length e
    simp only [exitItems, if_neg hb, bypassOff_same hb, afterBus_nil] at this
    exact this
  have back := flashResetRead_amd length
    (afterBus length (unlockItems e (partTable e).eraseSetup
      ++ [offsetItem e (partTable e).unlock1Offset (partTable e).unlock1,
          offsetItem e (partTable e).unlock2Offset (partTable e).unlock2,
          cycle a (partTable e).sectorErase, (.read .half a, r1)]) e) hk
  rw [exitItems_off (by exact hb), List.nil_append, bypassOff_same (by exact hb)] at back
  refine Issues.congr (Issues.next (eraseByKind_amd hk (Issues.after exits (eraseAmd_issues length a r1 e hr)))
    back) ?_ ?_ <;>
    rcases hk with hk | hk <;> simp only [eraseItems, hk, resetItems, afterBus_flash, afterBus_cfg]

end Sys2Proof.Machine
end

