-- ==== Sys2Proof/Laws/PerInstr.lean ====
section
/-!
SUPPORT. Laws about every instruction as syntax, one lemma per constructor.
-/

namespace Sys2Proof.Laws.EncodingFits

/-- The word of a well-formed row fits its port: 32 bits for a command, a CONTROL value or a controller word, the IR
length for an instruction code, 16 for a NOR datum, 8 for an SPI opcode (30_encoding.md R66, R76-R89). -/
def Statement (i : Instr) : Prop :=
  ∀ length : Nat, wellFormed length i = true → (encodeWord length i).toNat < 2 ^ portWidth (portOf length i)

/-- A code that is one less than all ones of a length fits that length. -/
theorem code_fits {code : Word} {length : Nat}
    (h : (legalIrLength length && decide (code.toNat + 1 < 2 ^ length)) = true) : code.toNat < 2 ^ length := by
  simp only [Bool.and_eq_true, decide_eq_true_eq] at h
  omega

theorem tapReset : Statement .tapReset := fun _ _ =>
  (by decide : (encodeWord 0 .tapReset).toNat < 2 ^ portWidth (portOf 0 .tapReset))
theorem tapSetir : Statement .tapSetir := fun _ _ =>
  (by decide : (encodeWord 0 .tapSetir).toNat < 2 ^ portWidth (portOf 0 .tapSetir))
theorem tapRwdata : Statement .tapRwdata := fun _ _ =>
  (by decide : (encodeWord 0 .tapRwdata).toNat < 2 ^ portWidth (portOf 0 .tapRwdata))
theorem tapRdata : Statement .tapRdata := fun _ _ =>
  (by decide : (encodeWord 0 .tapRdata).toNat < 2 ^ portWidth (portOf 0 .tapRdata))
theorem tapWdata : Statement .tapWdata := fun _ _ =>
  (by decide : (encodeWord 0 .tapWdata).toNat < 2 ^ portWidth (portOf 0 .tapWdata))
theorem cfgIrlen : Statement .cfgIrlen := fun _ _ =>
  (by decide : (encodeWord 0 .cfgIrlen).toNat < 2 ^ portWidth (portOf 0 .cfgIrlen))
theorem detect : Statement .detect := fun _ _ =>
  (by decide : (encodeWord 0 .detect).toNat < 2 ^ portWidth (portOf 0 .detect))
theorem features : Statement .features := fun _ _ =>
  (by decide : (encodeWord 0 .features).toNat < 2 ^ portWidth (portOf 0 .features))
theorem cfgAccess : Statement .cfgAccess := fun _ _ =>
  (by decide : (encodeWord 0 .cfgAccess).toNat < 2 ^ portWidth (portOf 0 .cfgAccess))
theorem cfgWindow : Statement .cfgWindow := fun _ _ =>
  (by decide : (encodeWord 0 .cfgWindow).toNat < 2 ^ portWidth (portOf 0 .cfgWindow))
theorem cfgOptions : Statement .cfgOptions := fun _ _ =>
  (by decide : (encodeWord 0 .cfgOptions).toNat < 2 ^ portWidth (portOf 0 .cfgOptions))
theorem flashForce : Statement .flashForce := fun _ _ =>
  (by decide : (encodeWord 0 .flashForce).toNat < 2 ^ portWidth (portOf 0 .flashForce))
theorem cfgCustomArea : Statement .cfgCustomArea := fun _ _ =>
  (by decide : (encodeWord 0 .cfgCustomArea).toNat < 2 ^ portWidth (portOf 0 .cfgCustomArea))
theorem selectArea : Statement .selectArea := fun _ _ =>
  (by decide : (encodeWord 0 .selectArea).toNat < 2 ^ portWidth (portOf 0 .selectArea))
theorem procReset : Statement .procReset := fun _ _ =>
  (by decide : (encodeWord 0 .procReset).toNat < 2 ^ portWidth (portOf 0 .procReset))
theorem procHalt : Statement .procHalt := fun _ _ =>
  (by decide : (encodeWord 0 .procHalt).toNat < 2 ^ portWidth (portOf 0 .procHalt))
theorem procResume : Statement .procResume := fun _ _ =>
  (by decide : (encodeWord 0 .procResume).toNat < 2 ^ portWidth (portOf 0 .procResume))
theorem depcRead : Statement .depcRead := fun _ _ =>
  (by decide : (encodeWord 0 .depcRead).toNat < 2 ^ portWidth (portOf 0 .depcRead))
theorem depcWrite : Statement .depcWrite := fun _ _ =>
  (by decide : (encodeWord 0 .depcWrite).toNat < 2 ^ portWidth (portOf 0 .depcWrite))
theorem memRead32 : Statement .memRead32 := fun _ _ =>
  (by decide : (encodeWord 0 .memRead32).toNat < 2 ^ portWidth (portOf 0 .memRead32))
theorem memRead16 : Statement .memRead16 := fun _ _ =>
  (by decide : (encodeWord 0 .memRead16).toNat < 2 ^ portWidth (portOf 0 .memRead16))
theorem memWrite32 : Statement .memWrite32 := fun _ _ =>
  (by decide : (encodeWord 0 .memWrite32).toNat < 2 ^ portWidth (portOf 0 .memWrite32))
theorem memWrite16 : Statement .memWrite16 := fun _ _ =>
  (by decide : (encodeWord 0 .memWrite16).toNat < 2 ^ portWidth (portOf 0 .memWrite16))
theorem dmaRead32 : Statement .dmaRead32 := fun _ _ =>
  (by decide : (encodeWord 0 .dmaRead32).toNat < 2 ^ portWidth (portOf 0 .dmaRead32))
theorem dmaRead16 : Statement .dmaRead16 := fun _ _ =>
  (by decide : (encodeWord 0 .dmaRead16).toNat < 2 ^ portWidth (portOf 0 .dmaRead16))
theorem dmaWrite32 : Statement .dmaWrite32 := fun _ _ =>
  (by decide : (encodeWord 0 .dmaWrite32).toNat < 2 ^ portWidth (portOf 0 .dmaWrite32))
theorem dmaWrite16 : Statement .dmaWrite16 := fun _ _ =>
  (by decide : (encodeWord 0 .dmaWrite16).toNat < 2 ^ portWidth (portOf 0 .dmaWrite16))
theorem praccRead32 : Statement .praccRead32 := fun _ _ =>
  (by decide : (encodeWord 0 .praccRead32).toNat < 2 ^ portWidth (portOf 0 .praccRead32))
theorem praccRead16 : Statement .praccRead16 := fun _ _ =>
  (by decide : (encodeWord 0 .praccRead16).toNat < 2 ^ portWidth (portOf 0 .praccRead16))
theorem praccWrite32 : Statement .praccWrite32 := fun _ _ =>
  (by decide : (encodeWord 0 .praccWrite32).toNat < 2 ^ portWidth (portOf 0 .praccWrite32))
theorem praccWrite16 : Statement .praccWrite16 := fun _ _ =>
  (by decide : (encodeWord 0 .praccWrite16).toNat < 2 ^ portWidth (portOf 0 .praccWrite16))
theorem execModule : Statement .execModule := fun _ _ =>
  (by decide : (encodeWord 0 .execModule).toNat < 2 ^ portWidth (portOf 0 .execModule))
theorem vregWrite : Statement .vregWrite := fun _ _ =>
  (by decide : (encodeWord 0 .vregWrite).toNat < 2 ^ portWidth (portOf 0 .vregWrite))
theorem vregRead : Statement .vregRead := fun _ _ =>
  (by decide : (encodeWord 0 .vregRead).toNat < 2 ^ portWidth (portOf 0 .vregRead))
theorem flashProbe : Statement .flashProbe := fun _ _ =>
  (by decide : (encodeWord 0 .flashProbe).toNat < 2 ^ portWidth (portOf 0 .flashProbe))
theorem flashEraseBlock : Statement .flashEraseBlock := fun _ _ =>
  (by decide : (encodeWord 0 .flashEraseBlock).toNat < 2 ^ portWidth (portOf 0 .flashEraseBlock))
theorem flashProgramWord : Statement .flashProgramWord := fun _ _ =>
  (by decide : (encodeWord 0 .flashProgramWord).toNat < 2 ^ portWidth (portOf 0 .flashProgramWord))
theorem flashResetRead : Statement .flashResetRead := fun _ _ =>
  (by decide : (encodeWord 0 .flashResetRead).toNat < 2 ^ portWidth (portOf 0 .flashResetRead))
theorem flashBypassEnter : Statement .flashBypassEnter := fun _ _ =>
  (by decide : (encodeWord 0 .flashBypassEnter).toNat < 2 ^ portWidth (portOf 0 .flashBypassEnter))
theorem flashBypassExit : Statement .flashBypassExit := fun _ _ =>
  (by decide : (encodeWord 0 .flashBypassExit).toNat < 2 ^ portWidth (portOf 0 .flashBypassExit))
theorem spiChipErase : Statement .spiChipErase := fun _ _ =>
  (by decide : (encodeWord 0 .spiChipErase).toNat < 2 ^ portWidth (portOf 0 .spiChipErase))
theorem areaBackup : Statement .areaBackup := fun _ _ =>
  (by decide : (encodeWord 0 .areaBackup).toNat < 2 ^ portWidth (portOf 0 .areaBackup))
theorem areaErase : Statement .areaErase := fun _ _ =>
  (by decide : (encodeWord 0 .areaErase).toNat < 2 ^ portWidth (portOf 0 .areaErase))
theorem areaProgram : Statement .areaProgram := fun _ _ =>
  (by decide : (encodeWord 0 .areaProgram).toNat < 2 ^ portWidth (portOf 0 .areaProgram))
theorem sessionEnd : Statement .sessionEnd := fun _ _ =>
  (by decide : (encodeWord 0 .sessionEnd).toNat < 2 ^ portWidth (portOf 0 .sessionEnd))
theorem irIdcode : Statement .irIdcode := fun _ h => code_fits h
theorem irImpcode : Statement .irImpcode := fun _ h => code_fits h
theorem irAddress : Statement .irAddress := fun _ h => code_fits h
theorem irData : Statement .irData := fun _ h => code_fits h
theorem irControl : Statement .irControl := fun _ h => code_fits h
theorem irAll : Statement .irAll := fun _ h => code_fits h
theorem irEjtagboot : Statement .irEjtagboot := fun _ h => code_fits h
theorem irNormalboot : Statement .irNormalboot := fun _ h => code_fits h
theorem irFastdata : Statement .irFastdata := fun _ h => code_fits h
theorem irBypass : Statement .irBypass := fun length _ => by
  have h : 0 < 2 ^ length := Nat.two_pow_pos length
  have h' := Nat.mod_le (2 ^ length - 1) (2 ^ 32)
  simp only [encodeWord, portOf, portWidth, BitVec.toNat_ofNat]
  omega
theorem ctlDmaRdW : Statement .ctlDmaRdW := fun _ _ =>
  (by decide : (encodeWord 0 .ctlDmaRdW).toNat < 2 ^ portWidth (portOf 0 .ctlDmaRdW))
theorem ctlDmaRdH : Statement .ctlDmaRdH := fun _ _ =>
  (by decide : (encodeWord 0 .ctlDmaRdH).toNat < 2 ^ portWidth (portOf 0 .ctlDmaRdH))
theorem ctlDmaWrW : Statement .ctlDmaWrW := fun _ _ =>
  (by decide : (encodeWord 0 .ctlDmaWrW).toNat < 2 ^ portWidth (portOf 0 .ctlDmaWrW))
theorem ctlDmaWrH : Statement .ctlDmaWrH := fun _ _ =>
  (by decide : (encodeWord 0 .ctlDmaWrH).toNat < 2 ^ portWidth (portOf 0 .ctlDmaWrH))
theorem ctlDmaPoll : Statement .ctlDmaPoll := fun _ _ =>
  (by decide : (encodeWord 0 .ctlDmaPoll).toNat < 2 ^ portWidth (portOf 0 .ctlDmaPoll))
theorem ctlDmaEnd : Statement .ctlDmaEnd := fun _ _ =>
  (by decide : (encodeWord 0 .ctlDmaEnd).toNat < 2 ^ portWidth (portOf 0 .ctlDmaEnd))
theorem ctlPraccPoll : Statement .ctlPraccPoll := fun _ _ =>
  (by decide : (encodeWord 0 .ctlPraccPoll).toNat < 2 ^ portWidth (portOf 0 .ctlPraccPoll))
theorem ctlPraccDone : Statement .ctlPraccDone := fun _ _ =>
  (by decide : (encodeWord 0 .ctlPraccDone).toNat < 2 ^ portWidth (portOf 0 .ctlPraccDone))
theorem ctlHalt : Statement .ctlHalt := fun _ _ =>
  (by decide : (encodeWord 0 .ctlHalt).toNat < 2 ^ portWidth (portOf 0 .ctlHalt))
theorem ctlReset : Statement .ctlReset := fun _ _ =>
  (by decide : (encodeWord 0 .ctlReset).toNat < 2 ^ portWidth (portOf 0 .ctlReset))
theorem ctlZero : Statement .ctlZero := fun _ _ =>
  (by decide : (encodeWord 0 .ctlZero).toNat < 2 ^ portWidth (portOf 0 .ctlZero))
theorem amdUnlock1 : Statement .amdUnlock1 := fun _ _ =>
  (by decide : (encodeWord 0 .amdUnlock1).toNat < 2 ^ portWidth (portOf 0 .amdUnlock1))
theorem amdUnlock2 : Statement .amdUnlock2 := fun _ _ =>
  (by decide : (encodeWord 0 .amdUnlock2).toNat < 2 ^ portWidth (portOf 0 .amdUnlock2))
theorem amdAutoselect : Statement .amdAutoselect := fun _ _ =>
  (by decide : (encodeWord 0 .amdAutoselect).toNat < 2 ^ portWidth (portOf 0 .amdAutoselect))
theorem amdEraseSetup : Statement .amdEraseSetup := fun _ _ =>
  (by decide : (encodeWord 0 .amdEraseSetup).toNat < 2 ^ portWidth (portOf 0 .amdEraseSetup))
theorem amdSectorErase : Statement .amdSectorErase := fun _ _ =>
  (by decide : (encodeWord 0 .amdSectorErase).toNat < 2 ^ portWidth (portOf 0 .amdSectorErase))
theorem amdProgram : Statement .amdProgram := fun _ _ =>
  (by decide : (encodeWord 0 .amdProgram).toNat < 2 ^ portWidth (portOf 0 .amdProgram))
theorem amdBypassEnter : Statement .amdBypassEnter := fun _ _ =>
  (by decide : (encodeWord 0 .amdBypassEnter).toNat < 2 ^ portWidth (portOf 0 .amdBypassEnter))
theorem amdBypassProgram : Statement .amdBypassProgram := fun _ _ =>
  (by decide : (encodeWord 0 .amdBypassProgram).toNat < 2 ^ portWidth (portOf 0 .amdBypassProgram))
theorem amdBypassExit1 : Statement .amdBypassExit1 := fun _ _ =>
  (by decide : (encodeWord 0 .amdBypassExit1).toNat < 2 ^ portWidth (portOf 0 .amdBypassExit1))
theorem amdBypassExit2 : Statement .amdBypassExit2 := fun _ _ =>
  (by decide : (encodeWord 0 .amdBypassExit2).toNat < 2 ^ portWidth (portOf 0 .amdBypassExit2))
theorem amdReset : Statement .amdReset := fun _ _ =>
  (by decide : (encodeWord 0 .amdReset).toNat < 2 ^ portWidth (portOf 0 .amdReset))
theorem sstUnlock1 : Statement .sstUnlock1 := fun _ _ =>
  (by decide : (encodeWord 0 .sstUnlock1).toNat < 2 ^ portWidth (portOf 0 .sstUnlock1))
theorem sstUnlock2 : Statement .sstUnlock2 := fun _ _ =>
  (by decide : (encodeWord 0 .sstUnlock2).toNat < 2 ^ portWidth (portOf 0 .sstUnlock2))
theorem sstAutoselect : Statement .sstAutoselect := fun _ _ =>
  (by decide : (encodeWord 0 .sstAutoselect).toNat < 2 ^ portWidth (portOf 0 .sstAutoselect))
theorem sstEraseSetup : Statement .sstEraseSetup := fun _ _ =>
  (by decide : (encodeWord 0 .sstEraseSetup).toNat < 2 ^ portWidth (portOf 0 .sstEraseSetup))
theorem sstSectorErase : Statement .sstSectorErase := fun _ _ =>
  (by decide : (encodeWord 0 .sstSectorErase).toNat < 2 ^ portWidth (portOf 0 .sstSectorErase))
theorem sstProgram : Statement .sstProgram := fun _ _ =>
  (by decide : (encodeWord 0 .sstProgram).toNat < 2 ^ portWidth (portOf 0 .sstProgram))
theorem sstReset : Statement .sstReset := fun _ _ =>
  (by decide : (encodeWord 0 .sstReset).toNat < 2 ^ portWidth (portOf 0 .sstReset))
theorem bscClearStatus : Statement .bscClearStatus := fun _ _ =>
  (by decide : (encodeWord 0 .bscClearStatus).toNat < 2 ^ portWidth (portOf 0 .bscClearStatus))
theorem bscUnlockSetup : Statement .bscUnlockSetup := fun _ _ =>
  (by decide : (encodeWord 0 .bscUnlockSetup).toNat < 2 ^ portWidth (portOf 0 .bscUnlockSetup))
theorem bscConfirm : Statement .bscConfirm := fun _ _ =>
  (by decide : (encodeWord 0 .bscConfirm).toNat < 2 ^ portWidth (portOf 0 .bscConfirm))
theorem bscEraseSetup : Statement .bscEraseSetup := fun _ _ =>
  (by decide : (encodeWord 0 .bscEraseSetup).toNat < 2 ^ portWidth (portOf 0 .bscEraseSetup))
theorem bscReadStatus : Statement .bscReadStatus := fun _ _ =>
  (by decide : (encodeWord 0 .bscReadStatus).toNat < 2 ^ portWidth (portOf 0 .bscReadStatus))
theorem bscProgramSetup : Statement .bscProgramSetup := fun _ _ =>
  (by decide : (encodeWord 0 .bscProgramSetup).toNat < 2 ^ portWidth (portOf 0 .bscProgramSetup))
theorem bscReadId : Statement .bscReadId := fun _ _ =>
  (by decide : (encodeWord 0 .bscReadId).toNat < 2 ^ portWidth (portOf 0 .bscReadId))
theorem bscReadArray : Statement .bscReadArray := fun _ _ =>
  (by decide : (encodeWord 0 .bscReadArray).toNat < 2 ^ portWidth (portOf 0 .bscReadArray))
theorem spiWren : Statement .spiWren := fun _ _ =>
  (by decide : (encodeWord 0 .spiWren).toNat < 2 ^ portWidth (portOf 0 .spiWren))
theorem spiWrenBroadcomCtrl : Statement .spiWrenBroadcomCtrl := fun _ _ =>
  (by decide : (encodeWord 0 .spiWrenBroadcomCtrl).toNat < 2 ^ portWidth (portOf 0 .spiWrenBroadcomCtrl))
theorem spiRdsr : Statement .spiRdsr := fun _ _ =>
  (by decide : (encodeWord 0 .spiRdsr).toNat < 2 ^ portWidth (portOf 0 .spiRdsr))
theorem spiRdsrBroadcomCtrl : Statement .spiRdsrBroadcomCtrl := fun _ _ =>
  (by decide : (encodeWord 0 .spiRdsrBroadcomCtrl).toNat < 2 ^ portWidth (portOf 0 .spiRdsrBroadcomCtrl))
theorem spiSe : Statement .spiSe := fun _ _ =>
  (by decide : (encodeWord 0 .spiSe).toNat < 2 ^ portWidth (portOf 0 .spiSe))
theorem spiSeBroadcomCtrl : Statement .spiSeBroadcomCtrl := fun _ _ =>
  (by decide : (encodeWord 0 .spiSeBroadcomCtrl).toNat < 2 ^ portWidth (portOf 0 .spiSeBroadcomCtrl))
theorem spiPp : Statement .spiPp := fun _ _ =>
  (by decide : (encodeWord 0 .spiPp).toNat < 2 ^ portWidth (portOf 0 .spiPp))
theorem spiPpBroadcomCtrl : Statement .spiPpBroadcomCtrl := fun _ _ =>
  (by decide : (encodeWord 0 .spiPpBroadcomCtrl).toNat < 2 ^ portWidth (portOf 0 .spiPpBroadcomCtrl))
theorem spiRdid : Statement .spiRdid := fun _ _ =>
  (by decide : (encodeWord 0 .spiRdid).toNat < 2 ^ portWidth (portOf 0 .spiRdid))
theorem spiRdidBroadcomCtrl : Statement .spiRdidBroadcomCtrl := fun _ _ =>
  (by decide : (encodeWord 0 .spiRdidBroadcomCtrl).toNat < 2 ^ portWidth (portOf 0 .spiRdidBroadcomCtrl))
theorem spiBe : Statement .spiBe := fun _ _ =>
  (by decide : (encodeWord 0 .spiBe).toNat < 2 ^ portWidth (portOf 0 .spiBe))
theorem spiBeBroadcomCtrl : Statement .spiBeBroadcomCtrl := fun _ _ =>
  (by decide : (encodeWord 0 .spiBeBroadcomCtrl).toNat < 2 ^ portWidth (portOf 0 .spiBeBroadcomCtrl))

end Sys2Proof.Laws.EncodingFits
end

