-- ==== Sys2Proof/Laws/Polls.lean ====
section
/-!
SUPPORT. What the checks of modules, the size guard and a poll of accesses can do, each said once: the checks change
nothing (60_exceptions.md R189), and a poll ends after its ready turn or gives up at its bound (R193).
-/

namespace Sys2Proof.Machine

/-! ## Checks of modules (60_exceptions.md R189) -/

theorem requireModules_ends {ms : List ModuleId} {e : Engine} (h : ∀ m ∈ ms, moduleWords e.cfg m ≠ []) :
    Ends (requireModules ms) e 0 () e := by
  induction ms with
  | nil => exact Ends.pure () e
  | cons m rest ih =>
    refine (getEngine_ends e).bind (m := 0) ?_
    have hm : (moduleWords e.cfg m).isEmpty = false := by
      simpa using h m (List.mem_cons_self ..)
    simp only [hm, Bool.false_eq_true, if_false]
    exact ih fun x hx => h x (List.mem_cons_of_mem _ hx)

/-- The first module without words is the one reported. -/
theorem requireModules_raises {before rest : List ModuleId} {m : ModuleId} {e : Engine}
    (hb : ∀ x ∈ before, moduleWords e.cfg x ≠ []) (h : moduleWords e.cfg m = []) :
    Raises (requireModules (before ++ m :: rest)) e 0 (faultedEngine .noModule (moduleNumber m) e) := by
  induction before with
  | nil =>
    refine (getEngine_ends e).raises (m := 0) ?_
    simp only [h, List.isEmpty_nil, if_true]
    exact raiseFault_raises _ _ e
  | cons x xs ih =>
    refine (getEngine_ends e).raises (m := 0) ?_
    have hx : (moduleWords e.cfg x).isEmpty = false := by
      simpa using hb x (List.mem_cons_self ..)
    simp only [hx, Bool.false_eq_true, if_false]
    exact ih fun y hy => hb y (List.mem_cons_of_mem _ hy)

theorem requireAccesses_ends {uses : List ModuleId} {e : Engine}
    (h : e.session.useDma = true ∨ ∀ m ∈ uses, moduleWords e.cfg m ≠ []) : Ends (requireAccesses uses) e 0 () e := by
  refine (getEngine_ends e).bind (m := 0) ?_
  by_cases hd : e.session.useDma = true
  · simp only [hd, if_true]
    exact Ends.pure () e
  · simp only [hd, Bool.false_eq_true, if_false]
    exact requireModules_ends (h.resolve_left hd)

theorem requireAccesses_raises {before rest : List ModuleId} {m : ModuleId} {e : Engine}
    (hd : e.session.useDma = false) (hb : ∀ x ∈ before, moduleWords e.cfg x ≠ []) (h : moduleWords e.cfg m = []) :
    Raises (requireAccesses (before ++ m :: rest)) e 0 (faultedEngine .noModule (moduleNumber m) e) := by
  refine (getEngine_ends e).raises (m := 0) ?_
  simp only [hd, Bool.false_eq_true, if_false]
  exact requireModules_raises hb h

/-- Under the DMA strategy the checks of modules do nothing. -/
theorem requireAccesses_issues (length : Nat) (uses : List ModuleId) (e : Engine) :
    Issues (requireAccesses uses) length e [] () e :=
  fun hd _ _ => requireAccesses_ends (.inl hd)

theorem requireChangeAccesses_issues (length : Nat) (e : Engine) : Issues requireChangeAccesses length e [] () e :=
  Issues.get (requireAccesses_issues length _ e)

theorem requireResetAccesses_issues (length : Nat) (e : Engine) : Issues requireResetAccesses length e [] () e :=
  Issues.get (requireAccesses_issues length _ e)

/-! ## The size guard (46_area_ops.md R181) -/

theorem guardSize_skips {checks body : Op Unit} {e : Engine} (h : e.flash.size = 0#32 ∨ e.area.length = 0#32) :
    Ends (guardSize checks body) e 0 ()
      (setResult 0#32 (setStatus (fun st => { st with skipped := true }) e)) := by
  have skip : ¬(0#32 < e.flash.size ∧ 0#32 < e.area.length) := by
    rcases h with h | h <;> simp [h]
  intro b _
  simp only [guardSize, bind_run, getEngine, if_neg skip]
  rfl

/-- Past the guard, the checks come before SKIPPED is cleared, and all else after. -/
theorem guardSize_runs {checks body : Op Unit} {e : Engine} (hs : e.flash.size ≠ 0#32) (hl : e.area.length ≠ 0#32) :
    ∀ b, guardSize checks body { eng := e, budget := b }
      = (do checks; setSkipped false; body : Op Unit) { eng := e, budget := b } := by
  have go : 0#32 < e.flash.size ∧ 0#32 < e.area.length := by
    constructor <;> bv_omega
  intro b
  simp only [guardSize, bind_run, getEngine, if_pos go]

/-! ## Faults along a script -/

/-- Along a script that the target answers as wanted, the operation takes a fault, with engine `e'` after it. -/
def Fails {α : Type} (op : Op α) (length : Nat) (e : Engine) (script : List Exchange) (e' : Engine) : Prop :=
  e.tap.irLength = some length → answered length e.cable 0 e.tap.irCache script = true →
    Raises op e (scriptClocks length e.tap.irCache script).length e'

theorem Does.fails {α β : Type} {op : Op α} {f : α → Op β} {length : Nat} {e e' e'' : Engine}
    {p q : List Exchange} {x : α} (h : Does op length e p x e') (t : Tracks length p e e')
    (k : Fails (f x) length e' q e'') : Fails (op >>= f) length e (p ++ q) e'' := by
  intro hl ha
  rw [answered_append, Bool.and_eq_true, Nat.zero_add] at ha
  rw [scriptClocks_append, List.length_append]
  have hc : scriptCache e.tap.irCache p = e'.tap.irCache := by rw [t.2]; rfl
  rw [hc]
  refine (h hl ha.1).raises (k (by rw [t.2]; exact hl) ?_)
  rw [t.1, afterScript_cable, answered_driven, ← hc]
  exact ha.2

theorem Fails.bind {α β : Type} {op : Op α} {f : α → Op β} {length : Nat} {e e' : Engine} {p : List Exchange}
    (h : Fails op length e p e') : Fails (op >>= f) length e p e' :=
  fun hl ha => (h hl ha).bind

/-- An operation without clocks, before a script that ends in a fault. -/
theorem Fails.after {α β : Type} {op : Op α} {f : α → Op β} {length : Nat} {e e' e'' : Engine}
    {q : List Exchange} {x : α} (h : Ends op e 0 x e') (ht : e'.cable = e.cable ∧ e'.tap = e.tap)
    (k : Fails (f x) length e' q e'') : Fails (op >>= f) length e q e'' := by
  intro hl ha
  have k' := k (by rw [ht.2]; exact hl) (by rw [ht.1, ht.2]; exact ha)
  have := h.raises k'
  rw [ht.2] at this
  simpa using this

theorem Fails.of_raises {α : Type} {op : Op α} {length : Nat} {e e' : Engine} (h : Raises op e 0 e') :
    Fails op length e [] e' :=
  fun _ _ => h

/-- A command that takes a fault along a script. -/
theorem runCommand_fails {i : Instr} {body : Op Unit} {s : State} {length : Nat} {script : List Exchange}
    {e' : Engine} (h : ready length s) (hb : Fails body length s.toEngine script e') (hf : follows length script s) :
    runCommand i .irUsing body s = .next (ending e' s) := by
  refine runCommand_raises (n := 0 + (scriptClocks length s.tap.irCache script).length) h.1
    ((checkClass_irUsing h).raises (hb h.2.2 hf.1)) ?_
  rw [Nat.zero_add]
  exact hf.2

/-! ## Polls of accesses (60_exceptions.md R193) -/

/-- At its bound a poll gives up. -/
theorem checkTimeout_raises {n bound : Nat} {site : Word} {e : Engine} (hb : pollBound e.cfg = some bound)
    (h : bound ≤ n) : Raises (checkTimeout n site) e 0 (faultedEngine .timeout site e) := by
  refine (getEngine_ends e).raises (m := 0) ?_
  simp only [hb, if_pos h]
  exact raiseFault_raises _ _ e

/-- One turn of a poll in engines with the parameters and the session of `e0`: it issues `turn v` and ends with
`value v`. -/
def Turns {α κ : Type} (body : Op α) (length : Nat) (e0 : Engine) (turn : κ → List (Access × Word)) (value : κ → α) :
    Prop :=
  ∀ v e, e.cfg = e0.cfg → e.session = e0.session → Issues body length e (turn v) (value v) (afterBus length (turn v) e)

/-- The accesses of a turn take clocks. -/
theorem busScript_clocks (length : Nat) (e : Engine) (items : List (Access × Word)) (cache : Option Word) :
    items.length ≤ (scriptClocks length cache (busScript e items)).length := by
  induction items generalizing cache with
  | nil => exact Nat.zero_le _
  | cons x rest ih =>
    have cons : busScript e (x :: rest) = busScript e [x] ++ busScript e rest := busScript_append e [x] rest
    rw [cons, scriptClocks_append, List.length_append, List.length_cons]
    have here : 1 ≤ (scriptClocks length cache (busScript e [x])).length := by
      obtain ⟨a, d⟩ := x
      cases a <;>
        simp only [busScript, dmaScript, attemptScript, startScript, List.flatMap_cons, List.flatMap_nil,
          List.append_nil, List.cons_append, List.nil_append, scriptClocks, List.length_append, drSequence_length] <;>
        omega
    have := ih (scriptCache cache (busScript e [x]))
    omega

theorem flatMap_length_le {κ : Type} {turn : κ → List (Access × Word)} (h : ∀ v, turn v ≠ []) (busy : List κ) :
    busy.length ≤ (busy.flatMap turn).length := by
  induction busy with
  | nil => exact Nat.le_refl 0
  | cons v rest ih =>
    have := List.length_pos_iff.mpr (h v)
    simp only [List.flatMap_cons, List.length_append, List.length_cons]
    omega

variable {α κ : Type} {body : Op α} {length : Nat} {e0 : Engine} {turn : κ → List (Access × Word)} {value : κ → α}
  {ready : α → Bool} {site : Word}

theorem pollLoop_turns (h : Turns body length e0 turn value) (busy : List κ) (v : κ)
    (hb : ∀ x ∈ busy, ready (value x) = false) (hv : ready (value v) = true) :
    ∀ (fuel i : Nat) (e : Engine), e.cfg = e0.cfg → e.session = e0.session → busy.length < fuel →
      (∀ bound, pollBound e0.cfg = some bound → i + busy.length < bound) →
      Issues (pollLoop site body ready fuel i) length e (busy.flatMap turn ++ turn v) (value v)
        (afterBus length (busy.flatMap turn ++ turn v) e) := by
  induction busy with
  | nil =>
    intro fuel i e hc hs hf _
    obtain ⟨fuel, rfl⟩ : ∃ k, fuel = k + 1 := ⟨fuel - 1, by simp at hf; omega⟩
    refine Issues.congr (Issues.step (ys := []) (h v e hc hs) ?_) (by simp) rfl
    simp only [hv, if_true]
    exact Issues.done length _ _
  | cons x rest ih =>
    intro fuel i e hc hs hf hp
    obtain ⟨fuel, rfl⟩ : ∃ k, fuel = k + 1 := ⟨fuel - 1, by simp at hf; omega⟩
    simp only [List.flatMap_cons, List.append_assoc]
    refine Issues.next (h x e hc hs) ?_
    simp only [hb x (List.mem_cons_self ..), Bool.false_eq_true, if_false]
    refine fun hd => Does.after (checkTimeout_ends ?_) ⟨rfl, rfl⟩
      (ih (fun y hy => hb y (List.mem_cons_of_mem _ hy)) fuel (i + 1) _ hc hs (by simp at hf; omega) ?_ hd)
    · intro bound hbound
      rw [show (afterBus length (turn x) e).cfg = e0.cfg from hc] at hbound
      have := hp bound hbound
      simp only [List.length_cons] at this
      omega
    · intro bound hbound
      have := hp bound hbound
      simp only [List.length_cons] at this
      omega

/-- A poll that is not ready for fewer turns than its bound ends with its first ready value. -/
theorem pollUntil_turns {e : Engine} (h : Turns body length e turn value) (ht : ∀ x, turn x ≠ []) (busy : List κ)
    (v : κ) (hb : ∀ x ∈ busy, ready (value x) = false) (hv : ready (value v) = true)
    (hp : patient e.cfg busy.length) :
    Issues (pollUntil site body ready) length e (busy.flatMap turn ++ turn v) (value v)
      (afterBus length (busy.flatMap turn ++ turn v) e) := by
  intro hd hl ha b hn
  have clocks := busScript_clocks length e (busy.flatMap turn ++ turn v) e.tap.irCache
  have turns := flatMap_length_le ht busy
  simp only [List.length_append] at clocks
  exact pollLoop_turns h busy v hb hv (b + 1) 0 e rfl rfl (by omega)
    (fun bound hbound => by have := hp bound hbound; omega) hd hl ha b hn

theorem pollLoop_gives_up (h : Turns body length e0 turn value) (busy : List κ)
    (hb : ∀ x ∈ busy, ready (value x) = false) (hn : busy ≠ []) :
    ∀ (fuel i : Nat) (e : Engine), e.cfg = e0.cfg → e.session = e0.session → e.session.useDma = true →
      busy.length < fuel → pollBound e0.cfg = some (i + busy.length) →
      Fails (pollLoop site body ready fuel i) length e (busScript e (busy.flatMap turn))
        (faultedEngine .timeout site (afterBus length (busy.flatMap turn) e)) := by
  induction busy with
  | nil => exact absurd rfl hn
  | cons x rest ih =>
    intro fuel i e hc hs hd hf hp
    obtain ⟨fuel, rfl⟩ : ∃ k, fuel = k + 1 := ⟨fuel - 1, by simp at hf; omega⟩
    have hc' : (afterBus length (turn x) e).cfg = e0.cfg := hc
    have hs' : (afterBus length (turn x) e).session = e0.session := hs
    rw [List.flatMap_cons, busScript_append, afterBus_append]
    refine Does.fails (h x e hc hs hd) ⟨rfl, rfl⟩ ?_
    simp only [hb x (List.mem_cons_self ..), Bool.false_eq_true, if_false]
    have same : busScript e (rest.flatMap turn) = busScript (afterBus length (turn x) e) (rest.flatMap turn) :=
      busScript_congr rfl rfl _
    rw [same]
    cases rest with
    | nil =>
      rw [List.flatMap_nil, afterBus_nil]
      have raises := checkTimeout_raises (n := i + 1) (site := site) (e := afterBus length (turn x) e)
        (by rw [hc']; simpa using hp) (Nat.le_refl _)
      exact Fails.bind (Fails.of_raises raises)
    | cons y rest =>
      refine Fails.after (checkTimeout_ends ?_) ⟨rfl, rfl⟩
        (ih (fun z hz => hb z (List.mem_cons_of_mem _ hz)) (by simp) fuel (i + 1) _ hc' hs' hd
          (by simp at hf ⊢; omega) (by rw [hp]; simp; omega))
      intro bound hbound
      rw [hc', hp] at hbound
      cases hbound
      simp

/-- A poll that is not ready for as many turns as its bound takes F_TIMEOUT. -/
theorem pollUntil_gives_up {e : Engine} (h : Turns body length e turn value) (ht : ∀ x, turn x ≠ []) (busy : List κ)
    (hb : ∀ x ∈ busy, ready (value x) = false) (hd : e.session.useDma = true)
    (hp : pollBound e.cfg = some busy.length) :
    Fails (pollUntil site body ready) length e (busScript e (busy.flatMap turn))
      (faultedEngine .timeout site (afterBus length (busy.flatMap turn) e)) := by
  intro hl ha b hn
  have clocks := busScript_clocks length e (busy.flatMap turn) e.tap.irCache
  have turns := flatMap_length_le ht busy
  have some : busy ≠ [] := by
    rintro rfl
    simp [pollBound] at hp
  exact pollLoop_gives_up h busy hb some (b + 1) 0 e rfl rfl hd (by omega) (by simpa using hp) hl ha b hn

end Sys2Proof.Machine
end

