-- ==== Sys2Proof/Tests/Slice0.lean ====
section
/-!
SUPPORT. Tests, and witnesses for the hypotheses of the statements. Words and expected values are written out from the
spec: the tables of 30_encoding.md and 45_flash_spi.md R171, and the vectors of 95_test_vectors.md.
-/

namespace Sys2Proof.Machine.Tests

/-! ## Ill-formed terms are refused (WellFormed) -/

theorem test_code_must_not_be_all_ones : wellFormed 3 .irAddress = false ∧ wellFormed 4 .irAddress = true := by decide
theorem test_code_all_ones_of_length_one : wellFormed 1 .irIdcode = false ∧ wellFormed 2 .irIdcode = true := by decide
theorem test_code_fastdata_at_four_bits : wellFormed 4 .irFastdata = true ∧ wellFormed 3 .irFastdata = false := by decide
theorem test_ir_length_zero : wellFormed 0 .irBypass = false ∧ wellFormed 1 .irBypass = true := by decide
theorem test_ir_length_above_max : wellFormed 33 .irBypass = false ∧ wellFormed 32 .irBypass = true := by decide
theorem test_command_at_another_port : belongsAt .control .tapReset = false ∧ belongsAt .command .tapReset = true := by
  decide
theorem test_cycle_at_another_address : belongsAt (.nor .amd .base) .amdUnlock1 = false
    ∧ belongsAt (.nor .amd .unlock1) .amdUnlock1 = true := by decide
theorem test_cycle_of_another_family : belongsAt (.nor .sst .unlock1) .amdUnlock1 = false := by decide
theorem test_code_at_a_short_register : belongsAt (.instructionRegister 3) .irAddress = false := by decide

/-! ## Decoding: every row, from its word in the spec's tables -/

/-- 30_encoding.md R68. -/
theorem test_decode_commands : ∀ x ∈ [
    (0x00000001#32, Instr.tapReset), (0x00000002#32, .tapSetir), (0x00000003#32, .tapRwdata),
    (0x00000004#32, .tapRdata), (0x00000005#32, .tapWdata), (0x00000010#32, .cfgIrlen), (0x00000011#32, .detect),
    (0x00000012#32, .features), (0x00000013#32, .cfgAccess), (0x00000014#32, .cfgWindow),
    (0x00000015#32, .cfgOptions), (0x00000016#32, .flashForce), (0x00000017#32, .cfgCustomArea),
    (0x00000018#32, .selectArea), (0x00000020#32, .procReset), (0x00000021#32, .procHalt),
    (0x00000022#32, .procResume), (0x00000023#32, .depcRead), (0x00000024#32, .depcWrite),
    (0x00000030#32, .memRead32), (0x00000031#32, .memRead16), (0x00000032#32, .memWrite32),
    (0x00000033#32, .memWrite16), (0x00000034#32, .dmaRead32), (0x00000035#32, .dmaRead16),
    (0x00000036#32, .dmaWrite32), (0x00000037#32, .dmaWrite16), (0x00000038#32, .praccRead32),
    (0x00000039#32, .praccRead16), (0x0000003A#32, .praccWrite32), (0x0000003B#32, .praccWrite16),
    (0x0000003C#32, .execModule), (0x0000003D#32, .vregWrite), (0x0000003E#32, .vregRead),
    (0x00000040#32, .flashProbe), (0x00000041#32, .flashEraseBlock), (0x00000042#32, .flashProgramWord),
    (0x00000043#32, .flashResetRead), (0x00000044#32, .flashBypassEnter), (0x00000045#32, .flashBypassExit),
    (0x00000046#32, .spiChipErase), (0x00000050#32, .areaBackup), (0x00000051#32, .areaErase),
    (0x00000052#32, .areaProgram), (0x00000060#32, .sessionEnd)],
    decode .command x.1 = .ok x.2 := by decide

/-- 30_encoding.md R77, R78, with BYPASS as all ones of 5 bits. -/
theorem test_decode_instruction_codes : ∀ x ∈ [
    (0x01#32, Instr.irIdcode), (0x03#32, .irImpcode), (0x08#32, .irAddress), (0x09#32, .irData),
    (0x0A#32, .irControl), (0x0B#32, .irAll), (0x0C#32, .irEjtagboot), (0x0D#32, .irNormalboot),
    (0x0E#32, .irFastdata), (0x1F#32, .irBypass)],
    decode (.instructionRegister 5) x.1 = .ok x.2 := by decide

/-- 30_encoding.md R76: bits above the IR length do not reach the wire. -/
theorem test_decode_code_above_length : decode (.instructionRegister 5) 0x2A#32 = .ok .irControl := by decide

/-- 30_encoding.md R80. -/
theorem test_decode_control_values : ∀ x ∈ [
    (0x00068B00#32, Instr.ctlDmaRdW), (0x00068A80#32, .ctlDmaRdH), (0x00068900#32, .ctlDmaWrW),
    (0x00068880#32, .ctlDmaWrH), (0x00068000#32, .ctlDmaPoll), (0x00048000#32, .ctlDmaEnd),
    (0x0004C000#32, .ctlPraccPoll), (0x0000C000#32, .ctlPraccDone), (0x0004D000#32, .ctlHalt),
    (0x00110000#32, .ctlReset), (0x00000000#32, .ctlZero)],
    decode .control x.1 = .ok x.2 := by decide

/-- 30_encoding.md R84. -/
theorem test_decode_amd_cycles : ∀ x ∈ [
    (NorSite.unlock1, 0x00AA#32, Instr.amdUnlock1), (.unlock2, 0x0055#32, .amdUnlock2),
    (.unlock1, 0x0090#32, .amdAutoselect), (.unlock1, 0x0080#32, .amdEraseSetup),
    (.target, 0x0030#32, .amdSectorErase), (.unlock1, 0x00A0#32, .amdProgram),
    (.unlock1, 0x0020#32, .amdBypassEnter), (.base, 0x00A0#32, .amdBypassProgram),
    (.base, 0x0090#32, .amdBypassExit1), (.base, 0x0000#32, .amdBypassExit2), (.base, 0x00F0#32, .amdReset)],
    decode (.nor .amd x.1) x.2.1 = .ok x.2.2 := by decide

/-- 30_encoding.md R85. -/
theorem test_decode_sst_cycles : ∀ x ∈ [
    (NorSite.unlock1, 0x00AA#32, Instr.sstUnlock1), (.unlock2, 0x0055#32, .sstUnlock2),
    (.unlock1, 0x0090#32, .sstAutoselect), (.unlock1, 0x0080#32, .sstEraseSetup),
    (.target, 0x0050#32, .sstSectorErase), (.unlock1, 0x00A0#32, .sstProgram), (.base, 0x00F0#32, .sstReset)],
    decode (.nor .sst x.1) x.2.1 = .ok x.2.2 := by decide

/-- 30_encoding.md R86. -/
theorem test_decode_bsc_cycles : ∀ x ∈ [
    (NorSite.target, 0x0050#32, Instr.bscClearStatus), (.target, 0x0060#32, .bscUnlockSetup),
    (.target, 0x00D0#32, .bscConfirm), (.target, 0x0020#32, .bscEraseSetup),
    (.target, 0x0070#32, .bscReadStatus), (.target, 0x0040#32, .bscProgramSetup),
    (.base, 0x0090#32, .bscReadId), (.base, 0x00FF#32, .bscReadArray)],
    decode (.nor .bsc x.1) x.2.1 = .ok x.2.2 := by decide

/-- 30_encoding.md R89: the defaults of P_SPI_OP are the words of the rows. -/
theorem test_spi_opcodes :
    [Config.spiOpcodes.wren, Config.spiOpcodes.rdsr, Config.spiOpcodes.se, Config.spiOpcodes.pp, Config.spiOpcodes.rdid,
      Config.spiOpcodes.be].map (BitVec.setWidth 32)
    = [Instr.spiWren, .spiRdsr, .spiSe, .spiPp, .spiRdid, .spiBe].map (encodeWord 0) := by decide

/-- 30_encoding.md R89. -/
theorem test_decode_spi_opcodes : ∀ x ∈ [
    (0x06#32, Instr.spiWren), (0x05#32, .spiRdsr), (0xD8#32, .spiSe), (0x02#32, .spiPp), (0x9F#32, .spiRdid),
    (0xC7#32, .spiBe)],
    decode .spiOpcode x.1 = .ok x.2 := by decide

/-- 45_flash_spi.md R171. -/
theorem test_decode_broadcom_words : ∀ x ∈ [
    (0x80000006#32, Instr.spiWrenBroadcomCtrl), (0x80000105#32, .spiRdsrBroadcomCtrl),
    (0x800002D8#32, .spiSeBroadcomCtrl), (0x80000302#32, .spiPpBroadcomCtrl),
    (0x8000039F#32, .spiRdidBroadcomCtrl), (0x800000C7#32, .spiBeBroadcomCtrl)],
    decode .spiControl x.1 = .ok x.2 := by decide

/-- 30_encoding.md R69. -/
theorem test_decode_reserved_words : decode .command 0x00000000#32 = .error .unassignedOp
    ∧ decode .command 0x00000006#32 = .error .unassignedOp ∧ decode .command 0x0000003F#32 = .error .unassignedOp
    ∧ decode .command 0x00000061#32 = .error .unassignedOp ∧ decode .command 0x000000FF#32 = .error .unassignedOp :=
  ⟨rfl, rfl, rfl, rfl, rfl⟩
theorem test_decode_reserved_bits : decode .command 0x00000130#32 = .error .reservedBits := by decide

/-- A bare word of the opcode table. -/
theorem test_table_words : decodeTableWord 32 0x60 = some .sessionEnd
    ∧ decodeTableWord 32 0x800000C7 = some .spiBeBroadcomCtrl ∧ decodeTableWord 16 0xD0 = some .bscConfirm
    ∧ decodeTableWord 8 0x0A = some .irControl ∧ decodeTableWord 8 0x9F = some .spiRdid
    ∧ decodeTableWord 32 0x130 = none :=
  ⟨rfl, rfl, rfl, rfl, rfl, rfl⟩

/-! ## States to test on -/

/-- The parameters of 95_test_vectors.md: little-endian, unbounded polls, no erratum, small tables. -/
def params : Params :=
  { Config.params with
    skipPollIdcodes := [], pollExtra := none, delay := 0
    procTable := [⟨0x0535217F#32, .five, "example"⟩]
    flashTable := [⟨0x00C2#16, 0x22A8#16, 0x400000#32, .amd, "example", .two ⟨8#32, 0x2000#32⟩ ⟨63#32, 0x10000#32⟩⟩,
      ⟨0x017E#16, 0x22DA#16, 0x4000#32, .amd, "spansion", .one ⟨2#32, 0x2000#32⟩⟩,
      ⟨0x00DA#16, 0x220A#16, 0x4000#32, .sst, "winbond", .one ⟨2#32, 0x2000#32⟩⟩,
      ⟨0x0089#16, 0x0018#16, 0x1000000#32, .bsc, "intel", .one ⟨128#32, 0x20000#32⟩⟩]
    areaTable := [⟨0x400000#32, "KERNEL", 0x1FC40000#32, 0x3B0000#32⟩]
    areaNames := ["CFE", "NVRAM", "KERNEL"]
    flashWindow := [(0x0535217F#32, 0x400000#32, 0x1C000000#32)]
    modules :=
      { readWord := [0x11#32, 0x12#32], writeWord := [0x21#32], readHalf := [0x31#32], writeHalf := [0x41#32],
        returnFromDebug := [0x51#32, 0x52#32], readDepc := [0x61#32], writeDepc := [0x71#32] }
    endian := .little, spiLayoutSelect := [], atheros := Config.broadcom, atherosIdcodes := [] }

/-- After block reset, with those parameters. -/
def afterReset : State := { Engine.reset params with host := [], running := none }

/-- The state in which the host is about to do some things. -/
def about (acts : List HostAction) (s : State) : State := { s with host := acts }

/-- Operands in the host registers, the command word of what is to run in CMD. -/
def operands (cmd a b : Word) (s : State) : State := { s with regs := { cmd, a, b, result := 0#32 } }

/-- After TAP_RESET and CFG_IRLEN of a length. -/
def idleTap (length : Nat) : State :=
  { afterReset with
    cable := { afterReset.cable with shadow := some .runTestIdle }, tap := { irCache := none, irLength := some length } }

/-- The same at 5 bits, with the DMA strategy selected (FEATURES of an IMPCODE of zero). -/
def dmaReady : State :=
  { idleTap 5 with session := { afterReset.session with dmaCapable := true, useDma := true } }

/-- A selected part in a window at 0x1C000000, as FLASH_FORCE of table entry `k` leaves it. -/
def withPart (k : Nat) (kind : FlashKind) (size : Word) (s : State) : State :=
  { s with flash := { s.flash with
      base := 0x1C000000#32, windowOverride := some 0x1C000000#32, cmdType := some kind, index := some k, size := size
      blockTable := blockTableOf s.cfg (some k) 0x1C000000#32 } }

/-- An area selected. -/
def withArea (start length : Word) (s : State) : State :=
  { s with area := { s.area with valid := true, start := start, length := length } }

/-- A session with the Broadcom SPI controller. -/
def withSpi (s : State) : State :=
  { s with session := { s.session with spiLayout := some .broadcom } }

/-- Bypass mode on. -/
def inBypass (s : State) : State :=
  { s with flash := { s.flash with bypassActive := true } }

/-- FAULTED, as F_TAP_UNSYNC leaves it. -/
def faultTaken (s : State) : State :=
  { s with status := { s.status with faulted := true, faultCode := .tapUnsync } }

/-- A step may drive at most this many clocks and one more. -/
def limited (clocks : Nat) (s : State) : State :=
  { s with cfg := { s.cfg with clocksPerStep := clocks } }

/-- P_POLL_TIMEOUT = n + 1. -/
def bounded (n : Nat) (s : State) : State :=
  { s with cfg := { s.cfg with pollExtra := some n } }

/-- Some modules have no words, and the PrAcc strategy is selected. -/
def lacking (f : Modules → Modules) (s : State) : State :=
  { s with cfg := { s.cfg with modules := f s.cfg.modules }, session := { s.session with useDma := false } }

/-- No module has any words, and the PrAcc strategy is selected. -/
def withoutModules (s : State) : State :=
  lacking (fun _ => ⟨[], [], [], [], [], [], []⟩) s

/-- The parts of the tests. -/
def amdPart : State := withPart 0 .amd 0x400000#32 dmaReady
/-- The parts of the tests. -/
def bscPart : State := withPart 3 .bsc 0x1000000#32 dmaReady
/-- The parts of the tests. -/
def spiPart : State := withSpi (withPart 0 .spi 0x400000#32 dmaReady)

/-- The state a step or an instruction answers. -/
def next? : Host.Outcome State Fault Refusal → Option State
  | .next t => some t
  | .fault _ => none
  | .refused _ => none

/-- The TMS bits driven. -/
def tmsOf (c : Cable) : List Bool := c.clocks.map (·.tms)
/-- The TDI bits driven. -/
def tdiOf (c : Cable) : List Bool := c.clocks.map (·.tdi)
/-- Bits of a string of the spec's tables. -/
def bits (s : List Nat) : List Bool := s.map (· = 1)

/-! ## Steps (95_test_vectors.md sections 2 and 3) -/

/-- The state a CMD write leads to. -/
def command (w : Word) (s : State) : Option State := next? (step (about [.writeCmd w] s))

/-- 3.1: TAP_RESET after block reset. -/
theorem test_tap_reset : (command 0x00000001#32 afterReset).map (fun t =>
      (tmsOf t.cable, statusWord t, t.regs.result, t.tap.irCache))
    = some (bits [1, 1, 1, 1, 1, 0], 0x00000C80#32, 0x00000000#32, none) := by decide

/-- 2.1, 3.2: SetIR(0x0A) at 5 bits. -/
theorem test_tap_setir : (next? (exec .tapSetir (operands 2#32 0x0A#32 0#32 (idleTap 5)))).map (fun t =>
      (tmsOf t.cable, tdiOf t.cable, t.tap.irCache))
    = some (bits [1,1,0,0,0,0,0,0,1,1,0], bits [0,0,0,0,0,1,0,1,0,0,0], some 0x0A#32) := by decide

/-- 3.2: only bits 4:0 of 0x2A are sent, but all of it is cached. -/
theorem test_tap_setir_upper_bits : (next? (exec .tapSetir (operands 2#32 0x2A#32 0#32 (idleTap 5)))).map (fun t =>
      (tdiOf t.cable, t.tap.irCache))
    = some (bits [0,0,0,0,0,1,0,1,0,0,0], some 0x2A#32) := by decide

/-- 3.2: through a BYPASS register of one bit, 0x80000001 comes back shifted by one. -/
theorem test_tap_rwdata : (next? (exec .tapRwdata (operands 3#32 0x80000001#32 0#32
      (answering 5 [.swap 0#32 anyReply] [0x00000002#32] (idleTap 5))))).map (fun t =>
      (t.regs.result, t.cable.clocks.length, t.cable.shadow))
    = some (0x00000002#32, 37, some .runTestIdle) := by decide

/-- 3.2: TAP_RDATA reads an IDCODE. -/
theorem test_tap_rdata : (next? (exec .tapRdata (operands 4#32 0#32 0#32
      (answering 5 [.swap 0#32 anyReply] [0x0535217F#32] (idleTap 5))))).map (fun t =>
      (t.regs.result, t.cable.clocks.length))
    = some (0x0535217F#32, 37) := by decide

/-- 3.2: TAP_WDATA leaves RESULT. -/
theorem test_tap_wdata : (next? (exec .tapWdata (operands 5#32 0x00048000#32 0#32 (idleTap 5)))).map (fun t =>
      (t.regs.result, (tdiOf t.cable).drop 3))
    = some (0#32, bits [0,0,0,0,0,0,0,0,0,0,0,0,0,0,0,1,0,0,1,0,0,0,0,0,0,0,0,0,0,0,0,0,0,0]) := by decide

/-- 3.3: CFG_IRLEN, at both ends of its range. -/
theorem test_cfg_irlen : (next? (exec .cfgIrlen (operands 0x10#32 32#32 0#32 afterReset))).map (fun t =>
      (t.tap.irLength, t.status.faulted)) = some (some 32, false) := by decide
theorem test_cfg_irlen_above : (next? (exec .cfgIrlen (operands 0x10#32 33#32 0#32 afterReset))).map (fun t =>
      (t.tap.irLength, statusWord t, t.regs.result)) = some (none, 0x000A0002#32, 33#32) := by decide

/-- 3.3: DETECT of the one processor of the table, 54 clocks. -/
theorem test_detect : (next? (exec .detect (operands 0x11#32 0#32 0#32
      { afterReset with cable := { afterReset.cable with
          tdoIn := List.replicate 17 false ++ swapBits 0x0535217F#32 } }))).map (fun t =>
      (t.regs.result, t.session.procIndex, t.tap.irLength, t.tap.irCache, statusWord t, t.cable.clocks.length))
    = some (0x0535217F#32, some 0, some 5, some 0x01#32, 0x00000C80#32, 54) := by decide

/-- 3.3: FEATURES of IMPCODE 0x20404000, 48 clocks. -/
theorem test_features : (next? (exec .features (operands 0x12#32 0#32 0#32
      (answering 5 [.select 0x03#32, .swap 0#32 anyReply] [0x20404000#32] dmaReady)))).map (fun t =>
      (t.session.ejtagVersion, t.session.dmaCapable, t.session.useDma, t.cable.clocks.length))
    = some (1#3, false, false, 48) := by decide

/-- 3.3: CFG_ACCESS. -/
theorem test_cfg_access : (next? (exec .cfgAccess (operands 0x13#32 2#32 0#32 dmaReady))).map (fun t =>
      (t.session.accessMode, t.session.useDma)) = some (.forcePracc, false) := by decide
theorem test_cfg_access_above : (next? (exec .cfgAccess (operands 0x13#32 3#32 0#32 dmaReady))).map (fun t =>
      (t.regs.result, t.status.faultCode)) = some (3#32, .badOperand) := by decide

/-- 3.3: CFG_OPTIONS. -/
theorem test_cfg_options : (next? (exec .cfgOptions (operands 0x15#32 0x5#32 0#32 afterReset))).map (fun t =>
      t.options) = some { bypass := true, st5 := false, swapEndian := true, reboot := false } := by decide

/-- 2.3, 3.8: FLASH_FORCE of entry 0 with an override window: 71 blocks, the first and the last. -/
theorem test_flash_force : (next? (exec .flashForce (operands 0x16#32 0#32 0#32
      { afterReset with flash := { afterReset.flash with windowOverride := some 0x1C000000#32 } }))).map (fun t =>
      (t.regs.result, t.flash.blockTable.length, t.flash.blockTable[0]?, t.flash.blockTable[8]?,
        t.flash.blockTable[70]?))
    = some (1#32, 71, some 0x1C000000#32, some 0x1C010000#32, some 0x1C3F0000#32) := by decide +kernel

/-- 3.8: SELECT_AREA of a named area. -/
theorem test_select_area : (next? (exec .selectArea (operands 0x18#32 2#32 0#32 amdPart))).map (fun t =>
      (t.regs.result, t.area.start)) = some (0x003B0000#32, 0x1FC40000#32) := by decide

/-- 2.4: the block that overlaps the area but starts before it is not selected. -/
theorem test_select_blocks :
    selectBlocks amdPart.flash.blockTable 0x1C001000#32 0x2000#32 = [0x1C002000#32]
      ∧ selectBlocks amdPart.flash.blockTable 0x1C000001#32 0x1000#32 = [] := by decide +kernel

/-- 2.5: DMA_READ32, DERR clear at once: 229 clocks. -/
theorem test_dma_read : (next? (exec .dmaRead32 (serving 5 [(.read .word 0x1FC00000#32, 0x00001001#32)]
      (operands 0x34#32 0x1FC00000#32 0#32 dmaReady)))).map (fun t => (t.regs.result, t.cable.clocks.length))
    = some (0x00001001#32, 229) := by decide +kernel

/-- 3.4: the lane of DMA_READ16 at an address with bit 1 set. -/
theorem test_dma_read_half : (next? (exec .dmaRead16 (serving 5 [(.read .half 0x1FC00002#32, 0xBEEF1234#32)]
      (operands 0x35#32 0x1FC00002#32 0#32 dmaReady)))).map (fun t => t.regs.result)
    = some 0x0000BEEF#32 := by decide +kernel

/-- 3.4: DMA_WRITE32 in 218 clocks; DMA_WRITE16 puts B[15:0] in both lanes. -/
theorem test_dma_write : (next? (exec .dmaWrite32 (serving 5 [(.write .word 0x80000000#32 0x01020304#32, 0#32)]
      (operands 0x36#32 0x80000000#32 0x01020304#32 dmaReady)))).map (fun t => t.cable.clocks.length)
    = some 218 := by decide +kernel
theorem test_dma_write_half : busValue .half 0x123400AA#32 = 0x00AA00AA#32 := by decide

/-- 3.5: VREG_WRITE does not OR KSEG1 in; VREG_READ. -/
theorem test_vreg_write : (next? (exec .vregWrite (operands 0x3D#32 0#32 0x1FC00000#32 afterReset))).map (fun t =>
      t.vregs.address) = some 0x1FC00000#32 := by decide

/-- 3.6: EXEC_MODULE 7. -/
theorem test_exec_module_above : (next? (exec .execModule (operands 0x3C#32 7#32 0#32 (idleTap 5)))).map (fun t =>
      (t.regs.result, t.status.faultCode)) = some (7#32, .badOperand) := by decide

/-- 3.7: PROC_RESET is 85 clocks with an empty cache. -/
theorem test_proc_reset : (next? (exec .procReset (operands 0x20#32 0#32 0#32 (idleTap 5)))).map (fun t =>
      t.cable.clocks.length) = some 85 := by decide +kernel

/-- 3.7: PROC_HALT of a processor that answers with DM = 1. -/
theorem test_proc_halt : (next? (exec .procHalt (operands 0x21#32 0#32 0#32 (answering 5
      [.select 0x0A#32, .swap 0#32 anyReply, .swap 0#32 anyReply] [0#32, 0x0004C008#32] (idleTap 5))))).map (fun t =>
      (t.regs.result, statusWord t)) = some (0x0004C008#32, 0x00000CC0#32) := by decide

/-- 3.9: a bypass command on an Intel-style part, and an erase without a part. -/
theorem test_bypass_unsupported : (next? (exec .flashBypassEnter (operands 0x44#32 0#32 0#32 bscPart))).map (fun t =>
      (t.regs.result, t.status.faultCode)) = some (0x00000044#32, .unsupported) := by decide
theorem test_no_flash : (next? (exec .flashEraseBlock (operands 0x41#32 0#32 0#32 dmaReady))).map (fun t =>
      (t.regs.result, t.status.faultCode)) = some (0x00000041#32, .noFlash) := by decide

/-- 3.11: without a stream. -/
theorem test_no_stream : (next? (exec .areaBackup (operands 0x50#32 0#32 0#32
      (withArea 0x1FC00000#32 8#32 amdPart)))).map (fun t => (t.regs.result, t.status.faultCode))
    = some (0x00000050#32, .stream) := by decide

/-- 46_area_ops.md R181: the guard clears SKIPPED, then F_STREAM is raised. -/
theorem test_stream_after_guard : (next? (exec .areaProgram (operands 0x52#32 0#32 0#32
      (withArea 0x1C000000#32 8#32 { amdPart with status := { amdPart.status with skipped := true } })))).map
      (fun t => (t.status.skipped, t.status.faultCode)) = some (false, .stream) := by decide

/-- The flash table without entries. -/
def emptyTable (s : State) : State := { s with cfg := { s.cfg with flashTable := [] } }

/-- 60_exceptions.md R189: F_NO_MODULE of a module that is sure to be run comes before any change. -/
theorem test_no_module_first : (next? (exec .flashProbe (operands 0x40#32 0#32 0#32 (withoutModules amdPart)))).map
      (fun t => (t.regs.result, t.status.faultCode, t.flash.cmdType, t.area.valid))
    = some (3#32, .noModule, some .amd, false) := by decide
theorem test_no_module_of_spi_trial : (next? (exec .flashProbe (operands 0x40#32 0#32 0#32
      (lacking (fun m => { m with readWord := [] }) (emptyTable (withSpi amdPart)))))).map
      (fun t => (t.regs.result, t.status.faultCode, t.flash.cmdType, t.cable.clocks))
    = some (0#32, .noModule, some .amd, []) := by decide

/-- 43_flash_probe.md R147: with a table, an SPI trial without its modules does not stop the trials before it. -/
theorem test_probe_modules : probeModules params (some .broadcom) = [.writeHalf, .readHalf]
    ∧ probeModules { params with flashTable := [] } (some .broadcom)
      = [.writeHalf, .readHalf, .writeWord, .readWord]
    ∧ probeModules { params with flashTable := [] } none = [.writeHalf, .readHalf] := by decide
theorem test_no_module_before_vregs : (next? (exec .praccWrite32 (operands 0x3A#32 5#32 7#32
      (withoutModules (idleTap 5))))).map (fun t => (t.regs.result, t.vregs, t.bus))
    = some (1#32, afterReset.vregs, []) := by decide

/-- 46_area_ops.md R186: bypass_active is 0 after SESSION_END, whatever the part. -/
theorem test_session_end_bypass : (next? (exec .sessionEnd (inBypass { afterReset with
      flash := { afterReset.flash with cmdType := some .bsc } }))).map (fun t => t.flash.bypassActive)
    = some false := by decide

/-- 3.11: stream words, straight, swapped and padded. -/
theorem test_stream_words : streamBytes false 0x11223344#32 = [0x11#8, 0x22#8, 0x33#8, 0x44#8]
    ∧ streamBytes true 0x11223344#32 = [0x44#8, 0x33#8, 0x22#8, 0x11#8]
    ∧ takeWord false [0x12#8, 0x34#8] = ((0x1234FFFF#32, true), [])
    ∧ takeWord true [0x12#8, 0x34#8] = ((0xFFFF3412#32, true), [])
    ∧ takeWord false [] = ((0xFFFFFFFF#32, true), [])
    ∧ takeWord false [1#8, 2#8, 3#8, 4#8] = ((0x01020304#32, false), [])
    ∧ wordCount 6#32 = 2 := by decide

/-- 2.7: the sub-ID bytes 0x22 and 0xDA. -/
theorem test_rdid : idsOfRdid 0x00162020#32 = (0x0020#16, 0x2016#16) := by decide

/-- 3.10: an SPI address wraps at 24 bits. -/
theorem test_spi_address : spiAddress 0x1C000000#32 0x1D000000#32 = 0#32 := by decide

/-- 3.12: MEM_READ32 after block reset; then TAP_RESET still runs; and an illegal word comes before the TAP check. -/
theorem test_fault_unsync : (command 0x00000030#32 afterReset).map (fun t => (t.regs.result, statusWord t))
    = some (0x00000030#32, 0x00030002#32) := by decide
theorem test_reset_while_faulted : (command 0x00000001#32 (faultTaken afterReset)).map statusWord
    = some 0x00030C82#32 := by decide
theorem test_illegal_command : (command 0x00000130#32 afterReset).map (fun t => (t.regs.result, statusWord t))
    = some (0x00000130#32, 0x00010002#32) := by decide
theorem test_no_ir_length : (command 0x00000002#32 (operands 0#32 0x0A#32 0#32 { idleTap 5 with
      tap := { irCache := none, irLength := none } })).map (fun t => (t.regs.result, statusWord t))
    = some (0x00000002#32, 0x00020C82#32) := by decide

/-- A command whose clocks do not fit one step is busy, and ends in a later one. -/
theorem test_busy : (command 0x00000001#32 (limited 2 afterReset)).map (fun t =>
      (t.cable.clocks.length, statusWord t)) = some (3, 0x00000001#32) := by decide
theorem test_busy_goes_on : ((command 0x00000001#32 (limited 2 afterReset)).bind fun t => next? (step { t with host := [] })).map
      (fun t => (t.cable.clocks.length, statusWord t)) = some (6, 0x00000C80#32) := by decide

/-! ## Witnesses: states and operands that meet the hypotheses of the statements -/

theorem ready_at {length : Nat} {s : State} (hr : s.running = none) (hf : s.status.faulted = false)
    (ht : s.cable.shadow = some .runTestIdle) (hl : s.tap.irLength = some length) : ready length s :=
  ⟨⟨hr, hf⟩, ht, hl⟩

/-- The invariant of an engine in which nothing is selected. -/
theorem engineInv_of {e : Engine} (hl : irLengthLegal e) (hf : faultRecorded e)
    (hd : e.status.dmaErr = false ∧ e.status.dmaFails = 0#8) (hs : e.session = (Engine.reset params).session)
    (hp : e.flash = (Engine.reset params).flash) (hc : e.cfg = params) : EngineInv e where
  irLength := hl
  fault := hf
  dmaFail := by simp [dmaFailRecorded, hd.1, hd.2]
  access := by rw [accessChosen, hs, hc]; decide
  processor := by rw [processorKnown, hs]; exact ⟨(fun _ h => nomatch h), rfl⟩
  flash := by rw [flashKnown, hp]; exact ⟨rfl, rfl⟩
  window := by rw [windowPlaced, hp, hc]; exact ⟨(fun _ h => nomatch h), fun _ _ => rfl, rfl⟩

theorem inv_afterReset (acts : List HostAction) : Inv (about acts afterReset) :=
  ⟨engineInv_of ⟨rfl, (fun _ h => nomatch h)⟩
      (by simp [faultRecorded, about, afterReset, Engine.reset]) ⟨rfl, rfl⟩ rfl rfl rfl,
    fun _ => .inl rfl, (fun _ h => nomatch h)⟩

theorem inv_faulted (acts : List HostAction) : Inv (about acts (faultTaken afterReset)) :=
  ⟨engineInv_of ⟨rfl, (fun _ h => nomatch h)⟩
      (by simp [faultRecorded, about, faultTaken, afterReset, Engine.reset]) ⟨rfl, rfl⟩ rfl rfl rfl,
    fun _ => .inl rfl, (fun _ h => nomatch h)⟩

theorem inv_idleTap : Inv (idleTap 5) :=
  ⟨engineInv_of ⟨rfl, fun n h => by cases h; rfl⟩
      (by simp [faultRecorded, idleTap, afterReset, Engine.reset]) ⟨rfl, rfl⟩ rfl rfl rfl,
    fun _ => .inr rfl, (fun _ h => nomatch h)⟩

/-- A command in progress: a TAP_RESET of which three clocks are driven. -/
def busy : State :=
  { limited 2 afterReset with running := some ⟨.tapReset, (limited 2 afterReset).toEngine, 3⟩ }

theorem witness_InvariantKept : ∃ s t : State, Inv s ∧ step s = .next t :=
  ⟨about [.writeCmd 0x00000010#32] afterReset, _, inv_afterReset _, rfl⟩

theorem witness_FaultSticky : ∃ s t : State, Inv s ∧ s.status.faulted = true ∧ s.host.head? ≠ some .blockReset
    ∧ step s = .next t :=
  ⟨about [.writeCmd 0x00000001#32] (faultTaken afterReset), _, inv_faulted _, rfl, by decide, rfl⟩

/-- A TAP_RESET in progress that began at RUN_TEST_IDLE. -/
def busyIdle : State :=
  { idleTap 5 with
    cable := driven (resetSequence.take 3) (idleTap 5).cable
    running := some ⟨.tapReset, (idleTap 5).toEngine, 3⟩ }

theorem inv_busyIdle : Inv busyIdle :=
  ⟨engineInv_of ⟨rfl, fun n h => by cases h; rfl⟩
      (by simp [faultRecorded, busyIdle, idleTap, afterReset, Engine.reset]) ⟨rfl, rfl⟩ rfl rfl rfl,
    (fun h => nomatch h), fun r h => by
      cases h
      exact ⟨inv_idleTap.engine, .inr rfl, rfl, rfl, rfl, (fun h => nomatch h)⟩⟩

theorem witness_IdleTapStaysIdle : (∃ (i : Instr) (s t : State), Inv s ∧ s.running = none
      ∧ s.cable.shadow = some .runTestIdle ∧ exec i s = .next t ∧ t.running = none)
    ∧ (∃ (i : Instr) (s t : State), Inv s ∧ s.running = none ∧ s.cable.shadow = none ∧ exec i s = .next t
      ∧ t.running = none)
    ∧ ∃ (r : Running) (s t : State), Inv s ∧ s.running = some r ∧ r.start.cable.shadow = some .runTestIdle
      ∧ exec r.instr s = .next t ∧ t.running = none :=
  ⟨⟨.tapSetir, idleTap 5, _, inv_idleTap, rfl, rfl, rfl, by decide⟩,
    ⟨.tapReset, about [] afterReset, _, inv_afterReset [], rfl, rfl, rfl, by decide⟩,
    ⟨_, busyIdle, _, inv_busyIdle, rfl, rfl, rfl, by decide⟩⟩

theorem witness_BlockReset : (∃ (s : State) (rest : List HostAction), s.host = .blockReset :: rest ∧ s.running = none)
    ∧ ∃ (s : State) (rest : List HostAction), s.host = .blockReset :: rest ∧ s.running ≠ none :=
  ⟨⟨about [.blockReset] (faultTaken afterReset), [], rfl, rfl⟩, ⟨about [.blockReset] busy, [], rfl, by decide⟩⟩

theorem witness_RefusedWhileFaulted : ∃ (i : Instr) (s : State), s.running = none ∧ s.status.faulted = true
    ∧ i ≠ .tapReset ∧ i ≠ .sessionEnd :=
  ⟨.cfgIrlen, faultTaken afterReset, rfl, rfl, by decide, by decide⟩

theorem witness_BusyBlock : ∃ (s : State) (r : Running), s.running = some r
    ∧ (∀ act ∈ [HostAction.writeA 1#32, .writeB 1#32, .writeCmd 1#32],
        (about [act] s).running = some r ∧ (about [act] s).host = [act])
    ∧ ∀ acts ∈ [[], [HostAction.awaitIdle], [.openStreams true []], [.present .control 0#32]],
        (about acts s).running = some r ∧ (about acts s).host = acts :=
  ⟨busy, _, rfl, fun _ _ => ⟨rfl, rfl⟩, fun _ _ => ⟨rfl, rfl⟩⟩

theorem witness_StepRunsDecoded :
    (∃ (s : State) (w : Word) (i : Instr) (rest : List HostAction), s.running = none ∧ s.host = .writeCmd w :: rest ∧ decode .command w = .ok i)
    ∧ ∃ (s : State) (p : Port) (w : Word) (i : Instr) (rest : List HostAction), s.running = none ∧ p ≠ .command ∧ s.host = .present p w :: rest ∧ decode p w = .ok i :=
  ⟨⟨about [.writeCmd 0x00000030#32] (idleTap 5), 0x00000030#32, .memRead32, [], rfl, rfl, rfl⟩,
    ⟨about [.present .spiOpcode 0x06#32] (idleTap 5), .spiOpcode, 0x06#32, .spiWren, [], rfl, by decide, rfl, rfl⟩⟩

theorem witness_HostActions : ∃ s : State, s.running = none
    ∧ ∀ acts ∈ [[], [HostAction.writeA 1#32], [.writeB 1#32], [.awaitIdle], [.openStreams true [0#8]]],
        (about acts s).host = acts :=
  ⟨afterReset, rfl, fun _ _ => rfl⟩

theorem witness_CutDoesNotMatter : ∃ (i : Instr) (s t : State) (e : Engine) (k : Nat), s.running = none ∧ e.cfg = s.cfg
    ∧ e ≠ s.toEngine ∧ k = 3 ∧ exec i s = .next t ∧ t.running = none :=
  ⟨.tapReset, limited 5 afterReset, _, { (limited 5 afterReset).toEngine with
      cable := driven (resetSequence.take 3) afterReset.cable }, 3, rfl, rfl, by decide, rfl, rfl, by decide⟩

theorem witness_StatusLayout : afterReset.cable.shadow = none ∧ (idleTap 5).cable.shadow = some .runTestIdle
    ∧ (faultTaken afterReset).status.faultCode = .tapUnsync ∧ afterReset.status.faultCode = .none :=
  ⟨rfl, rfl, rfl, rfl⟩

theorem witness_RoundTrip : wellFormed 4 .irFastdata = true ∧ wellFormed 1 .irBypass = true
    ∧ wellFormed 32 .irBypass = true ∧ wellFormed 0 .ctlZero = true := by decide

theorem witness_DecodedWordIsEncoded : decode (.instructionRegister 5) 0xFFFFFFEA#32 = .ok .irControl
    ∧ decode .control 0#32 = .ok .ctlZero := ⟨rfl, rfl⟩

theorem witness_IllegalCommand : (∃ (s : State) (w : Word) (why : Reject) (rest : List HostAction), s.running = none ∧ s.host = .writeCmd w :: rest
      ∧ decode .command w = .error why ∧ s.status.faulted = false)
    ∧ ∃ (s : State) (w : Word) (why : Reject) (rest : List HostAction), s.running = none ∧ s.host = .writeCmd w :: rest
      ∧ decode .command w = .error why ∧ s.status.faulted = true :=
  ⟨⟨about [.writeCmd 0x00000006#32] afterReset, 0x00000006#32, _, [], rfl, rfl, rfl, rfl⟩,
    ⟨about [.writeCmd 0x00000100#32] (faultTaken afterReset), 0x00000100#32, _, [], rfl, rfl, rfl, rfl⟩⟩

theorem witness_ClassChecks :
    (∃ (s : State) (i : Instr), accepting s ∧ (i ∈ irUsingCommands ∨ i ∈ drOnlyCommands) ∧ s.cable.shadow ≠ some .runTestIdle)
    ∧ ∃ (s : State) (i : Instr), accepting s ∧ i ∈ irUsingCommands ∧ s.cable.shadow = some .runTestIdle ∧ s.tap.irLength = none :=
  ⟨⟨afterReset, .tapRdata, ⟨rfl, rfl⟩, .inr (by decide), by decide⟩,
    ⟨{ idleTap 5 with tap := { irCache := none, irLength := none } }, .tapSetir, ⟨rfl, rfl⟩, by decide, rfl, rfl⟩⟩

theorem witness_FlashPreconditions : (∃ (s : State), ready 5 s ∧ s.flash.cmdType = none)
    ∧ (∃ (s : State), ready 5 s ∧ s.flash.cmdType ≠ none ∧ s.flash.cmdType ≠ some .amd ∧ s.flash.cmdType ≠ some .sst)
    ∧ (∃ (s : State), ready 5 s ∧ s.flash.cmdType ≠ none ∧ s.flash.cmdType ≠ some .spi)
    ∧ ∃ (s : State), ready 5 s ∧ s.flash.cmdType = some .spi ∧ s.session.spiLayout = none :=
  ⟨⟨dmaReady, ready_at rfl rfl rfl rfl, rfl⟩,
    ⟨bscPart, ready_at rfl rfl rfl rfl, by decide, by decide, by decide⟩,
    ⟨amdPart, ready_at rfl rfl rfl rfl, by decide, by decide⟩,
    ⟨withPart 0 .spi 0x400000#32 dmaReady, ready_at rfl rfl rfl rfl, rfl, rfl⟩⟩

theorem witness_TapReset : ∃ s : State, s.running = none ∧ s.status.faulted = true ∧ clocksAllowed s = 6 :=
  ⟨limited 5 (faultTaken afterReset), rfl, rfl, rfl⟩

theorem witness_TapSetir : (∃ (s : State), ready 5 s ∧ s.tap.irCache = some s.regs.a)
    ∧ ∃ (s : State), ready 32 s ∧ s.tap.irCache ≠ some s.regs.a ∧ clocksAllowed s = 32 + 6 :=
  ⟨⟨operands 2#32 0x0A#32 0#32 { idleTap 5 with tap := { irCache := some 0x0A#32, irLength := some 5 } },
      ready_at rfl rfl rfl rfl, rfl⟩,
    ⟨limited 37 (operands 2#32 0xFFFFFFFF#32 0#32 (idleTap 32)), ready_at rfl rfl rfl rfl, by decide, rfl⟩⟩

theorem witness_TapData : ∃ (s : State) (cableAfter : Word → Cable), accepting s
    ∧ s.cable.shadow = some .runTestIdle ∧ clocksAllowed s = 37
    ∧ ∀ v : Word, cableAfter v = driven ([⟨true, false⟩, ⟨false, false⟩, ⟨false, false⟩]
        ++ (List.range 32).map (fun i => ⟨decide (i = 31), v.getLsbD i⟩)
        ++ [⟨true, false⟩, ⟨false, false⟩]) s.cable :=
  ⟨limited 36 (idleTap 5), _, ⟨rfl, rfl⟩, rfl, rfl, fun _ => rfl⟩

theorem witness_InstructionCodeRows : ∃ s : State, ready 32 s ∧ clocksAllowed s = 32 + 6 :=
  ⟨limited 37 (idleTap 32), ready_at rfl rfl rfl rfl, rfl⟩

theorem witness_ControlValueRows : ∃ s : State, ready 32 s ∧ clocksAllowed s = 32 + 43 :=
  ⟨limited 74 (idleTap 32), ready_at rfl rfl rfl rfl, rfl⟩

/-- An accepting state with given operands, for the commands that drive no clock. -/
theorem accepting_operands (a b : Word) : accepting (operands 0#32 a b afterReset) := ⟨rfl, rfl⟩

theorem witness_SessionSettings_irlen : (∃ s : State, accepting s ∧ s.regs.a.toNat = 1) ∧ (∃ s : State, accepting s ∧ s.regs.a.toNat = 32)
    ∧ (∃ s : State, accepting s ∧ s.regs.a.toNat = 0) ∧ ∃ s : State, accepting s ∧ s.regs.a.toNat = 33 :=
  ⟨⟨operands 0#32 1#32 0#32 afterReset, accepting_operands _ _, rfl⟩,
    ⟨operands 0#32 32#32 0#32 afterReset, accepting_operands _ _, rfl⟩,
    ⟨operands 0#32 0#32 0#32 afterReset, accepting_operands _ _, rfl⟩,
    ⟨operands 0#32 33#32 0#32 afterReset, accepting_operands _ _, rfl⟩⟩

theorem witness_SessionSettings_access : ∀ a ∈ [0#32, 1#32, 2#32, 3#32], ∃ (s : State), accepting s ∧ s.regs.a = a :=
  fun a _ => ⟨operands 0#32 a 0#32 afterReset, accepting_operands _ _, rfl⟩

theorem witness_SessionSettings_window : (∃ (s : State), accepting s ∧ s.regs.b = 0#32)
    ∧ (∃ (s : State), accepting s ∧ s.regs.b = 1#32 ∧ s.flash.index = none)
    ∧ (∃ (s : State), accepting s ∧ s.regs.b = 1#32 ∧ s.flash.index ≠ none) ∧ ∃ (s : State), accepting s ∧ 1#32 < s.regs.b :=
  ⟨⟨operands 0#32 0#32 0#32 amdPart, ⟨rfl, rfl⟩, rfl⟩,
    ⟨operands 0#32 0#32 1#32 afterReset, accepting_operands _ _, rfl, rfl⟩,
    ⟨operands 0#32 0#32 1#32 amdPart, ⟨rfl, rfl⟩, rfl, by decide⟩,
    ⟨operands 0#32 0#32 2#32 afterReset, accepting_operands _ _, by decide⟩⟩

theorem witness_SessionSettings_options : (∃ (s : State), accepting s ∧ s.regs.a.toNat = 15) ∧ ∃ (s : State), accepting s ∧ s.regs.a.toNat = 16 :=
  ⟨⟨operands 0#32 15#32 0#32 afterReset, accepting_operands _ _, rfl⟩,
    ⟨operands 0#32 16#32 0#32 afterReset, accepting_operands _ _, rfl⟩⟩

theorem witness_VirtualRegisters : ∀ a ∈ [0#32, 1#32, 2#32], ∃ (s : State), accepting s ∧ s.regs.a = a :=
  fun a _ => ⟨operands 0#32 a 0#32 afterReset, accepting_operands _ _, rfl⟩

/-- The state in which DETECT reads the words `ids`, the n-th of them at the n-th length. -/
def detecting (ids : List (Nat × Word)) (s : State) : State :=
  operands 0x11#32 0#32 0#32 { s with cable := { s.cable with
    tdoIn := ids.flatMap fun x => List.replicate (x.1 + 12) false ++ swapBits x.2 } }

/-- A second table entry, of 8 bits. -/
def twoProcessors (s : State) : State :=
  { s with cfg := { s.cfg with procTable := s.cfg.procTable ++ [⟨0x0000100F#32, .eight, "second"⟩] } }

theorem witness_Detect : (∃ (s : State) (id : Word), accepting s ∧ s.regs.a.toNat = 32
      ∧ s.regs.a.toNat + 49 = clocksAllowed s ∧ id = readIdReply s.cable [] s.regs.a.toNat)
    ∧ (∃ (s : State), accepting s ∧ s.regs.a.toNat = 33)
    ∧ (∃ (s : State) (d : ProcDescriptor) (before lengths : List Nat), accepting s ∧ s.regs.a = 0#32
      ∧ s.cfg.procTable[1]? = some d ∧ before = (tableLengths s.cfg).take 1
      ∧ lengths = before ++ [tableIrLength d.irLength]
      ∧ (∀ j x, j < 1 → s.cfg.procTable[j]? = some x →
        readIdReply s.cable (before.take j) (tableIrLength x.irLength) ≠ x.idcode)
      ∧ readIdReply s.cable before (tableIrLength d.irLength) = d.idcode
      ∧ (lengths.map (· + 49)).sum = clocksAllowed s)
    ∧ ∃ (s : State) (lengths : List Nat), accepting s ∧ s.regs.a = 0#32 ∧ 1 ≤ s.cfg.irLengthUnknown
      ∧ lengths = tableLengths s.cfg ++ [s.cfg.irLengthUnknown]
      ∧ (∀ j x, s.cfg.procTable[j]? = some x →
        readIdReply s.cable ((tableLengths s.cfg).take j) (tableIrLength x.irLength) ≠ x.idcode)
      ∧ (lengths.map (· + 49)).sum = clocksAllowed s :=
  ⟨⟨limited 80 (operands 0#32 32#32 0#32 afterReset), _, ⟨rfl, rfl⟩, rfl, rfl, rfl⟩,
    ⟨operands 0#32 33#32 0#32 afterReset, accepting_operands _ _, rfl⟩,
    ⟨detecting [(5, 0#32), (8, 0x0000100F#32)] (limited 110 (twoProcessors afterReset)), _, _, _, ⟨rfl, rfl⟩, rfl, rfl,
      rfl, rfl, (by
        intro j x hj hx
        match j, hj, hx with
        | 0, _, hx => cases hx; decide +kernel), by decide +kernel, rfl⟩,
    ⟨detecting [(5, 0#32), (5, 0#32)] (limited 107 afterReset), _, ⟨rfl, rfl⟩, rfl, by decide, rfl, (by
        intro j x hx
        match j, hx with
        | 0, hx => cases hx; decide +kernel
        | j + 1, hx => simp [detecting, operands, limited, afterReset, Engine.reset, params] at hx), rfl⟩⟩

theorem witness_Lookups : procLookup params 0x0535217F#32 = some 0 ∧ procLookup params 0#32 = none
    ∧ flashLookup params 0x0089#16 0x0018#16 = some 3 ∧ flashLookup params 0x0089#16 0x0019#16 = none := by decide

theorem witness_Features : ∃ (s : State) (v : Word), ready 5 s
    ∧ follows 5 [.select s.cfg.ir.impcode, .swap 0#32 (exactly v)] s :=
  ⟨answering 5 [.select 0x03#32, .swap 0#32 (exactly 0x20404000#32)] [0x20404000#32] dmaReady, 0x20404000#32,
    ready_at rfl rfl rfl rfl, follows_answering (by decide) (by decide)⟩

theorem witness_ResetAndHalt :
    (∃ (s : State) (script : List Exchange), ready 5 s
      ∧ script = [.select s.cfg.ir.control, .swap (ctlReset s.cfg.ctl) anyReply, .swap 0#32 anyReply]
      ∧ follows 5 script s)
    ∧ ∃ (s : State) (script : List Exchange) (c : Word), ready 5 s
      ∧ script = [.select s.cfg.ir.control, .swap (ctlHalt s.cfg.ctl) anyReply,
          .swap (ctlPraccPoll s.cfg.ctl) (exactly c)]
      ∧ follows 5 script s :=
  ⟨⟨answering 5 [.select 0x0A#32, .swap (ctlReset params.ctl) anyReply, .swap 0#32 anyReply] [] dmaReady, _,
      ready_at rfl rfl rfl rfl, rfl, follows_answering (by decide) (by decide)⟩,
    ⟨answering 5 [.select 0x0A#32, .swap (ctlHalt params.ctl) anyReply,
        .swap (ctlPraccPoll params.ctl) (exactly 0x0004C008#32)] [0#32, 0x0004C008#32] dmaReady, _, 0x0004C008#32,
      ready_at rfl rfl rfl rfl, rfl, follows_answering (by decide) (by decide)⟩⟩

/-- The answers to a read attempt that fails: some DSTRT poll turns read 1, then the DATA word. -/
def failedWords (x : Nat × Word) : List Word := [0#32, 0#32] ++ List.replicate x.1 0x00000800#32 ++ [0#32, x.2, 0x00000400#32]

/-- A DMA read of the boot vector that fails for each of the words `failed`. -/
def readFails (width : Width) (failed : List (Nat × Word)) : List Exchange :=
  failingScript dmaReady.toEngine (.read width 0x1FC00000#32) failed

/-- A DMA write there. -/
def writeFails (width : Width) (v : Word) (failed : List (Nat × Word)) : List Exchange :=
  failingScript dmaReady.toEngine (.write width 0x1FC00000#32 v) failed

theorem witness_DmaRead : (∃ (s : State) (failed : List (Nat × Word)) (turns : Nat) (d : Word) (script : List Exchange),
      ready 5 s ∧ failed.length = 15 ∧ pollBound s.cfg = some 3 ∧ turns = 2 ∧ (∀ x ∈ failed, patient s.cfg x.1)
      ∧ patient s.cfg turns ∧ s.session.useDma = true
      ∧ script = failingScript s.toEngine (.read .word s.regs.a) failed
        ++ attemptScript s.cfg (skipsDstrtPoll s.cfg s.session) turns false (.read .word s.regs.a, d)
      ∧ follows 5 script s)
    ∧ ∃ (s : State) (d : Word) (script : List Exchange), ready 5 s ∧ s.session.useDma = true
      ∧ script = failingScript s.toEngine (.read .half s.regs.a) []
        ++ attemptScript s.cfg (skipsDstrtPoll s.cfg s.session) 0 false (.read .half s.regs.a, d)
      ∧ follows 5 script s :=
  ⟨⟨answering 5 (readFails .word (List.replicate 15 (1, 7#32))
          ++ attemptScript params false 2 false (.read .word 0x1FC00000#32, 9#32))
        ((List.replicate 15 (1, 7#32)).flatMap failedWords ++ [0#32, 0#32, 0x800#32, 0x800#32, 0#32, 9#32, 0#32])
        (operands 0#32 0x1FC00000#32 0#32 (bounded 2 dmaReady)),
      List.replicate 15 (1, 7#32), 2, 9#32, _, ready_at rfl rfl rfl rfl, rfl, rfl, rfl,
      (fun x h b hb => by cases hb; rw [List.eq_of_mem_replicate h]; decide), (fun b hb => by cases hb; decide), rfl, rfl,
      follows_answering (by decide +kernel) (by decide +kernel)⟩,
    ⟨answering 5 (busScript dmaReady.toEngine [(.read .half 0x1FC00002#32, 9#32)]) [0#32, 0#32, 0#32, 9#32, 0#32]
        (operands 0#32 0x1FC00002#32 0#32 dmaReady),
      9#32, _, ready_at rfl rfl rfl rfl, rfl, rfl, follows_answering (by decide +kernel) (by decide +kernel)⟩⟩

theorem witness_DmaWrite : (∃ (s : State) (failed : List (Nat × Word)) (turns : Nat) (d v : Word)
      (script : List Exchange), ready 5 s ∧ failed.length = 15 ∧ turns = 2 ∧ (∀ x ∈ failed, patient s.cfg x.1)
      ∧ patient s.cfg turns ∧ s.session.useDma = true ∧ v = s.regs.b
      ∧ script = failingScript s.toEngine (.write .word s.regs.a v) failed
          ++ attemptScript s.cfg (skipsDstrtPoll s.cfg s.session) turns false (.write .word s.regs.a v, d)
      ∧ follows 5 script s)
    ∧ ∃ (s : State) (d v : Word) (script : List Exchange), ready 5 s ∧ s.session.useDma = true
      ∧ v = hw16 (lowHalf s.regs.b)
      ∧ script = failingScript s.toEngine (.write .half s.regs.a v) []
          ++ attemptScript s.cfg (skipsDstrtPoll s.cfg s.session) 0 false (.write .half s.regs.a v, d)
      ∧ follows 5 script s :=
  ⟨⟨answering 5 (writeFails .word 5#32 (List.replicate 15 (0, 0#32))
          ++ attemptScript params false 2 false (.write .word 0x1FC00000#32 5#32, 0#32))
        ((List.replicate 15 (0, 0#32)).flatMap failedWords ++ [0#32, 0#32, 0#32, 0x800#32, 0x800#32, 0#32, 0#32])
        (operands 0#32 0x1FC00000#32 5#32 dmaReady),
      List.replicate 15 (0, 0#32), 2, 0#32, 5#32, _, ready_at rfl rfl rfl rfl, rfl, rfl,
      (fun _ _ _ hb => nomatch hb), (fun _ hb => nomatch hb), rfl, rfl, rfl,
      follows_answering (by decide +kernel) (by decide +kernel)⟩,
    ⟨answering 5 (busScript dmaReady.toEngine [(.write .half 0x1FC00002#32 0x00AA00AA#32, 0#32)])
        [0#32, 0#32, 0#32, 0#32, 0#32] (operands 0#32 0x1FC00002#32 0x123400AA#32 dmaReady),
      0#32, 0x00AA00AA#32, _, ready_at rfl rfl rfl rfl, rfl, by decide, rfl,
      follows_answering (by decide +kernel) (by decide +kernel)⟩⟩

theorem witness_DmaExhausted : (∃ (s : State) (ds : List (Nat × Word)) (last : Nat × Word), ready 5 s ∧ ds.length = 16
      ∧ ds.getLast? = some last ∧ (∀ x ∈ ds, patient s.cfg x.1) ∧ s.status.dmaFails = 0xFF#8
      ∧ follows 5 (failingScript s.toEngine (.read .word s.regs.a) ds) s)
    ∧ ∃ (s : State) (ds : List (Nat × Word)) (last : Nat × Word), ready 5 s ∧ ds.length = 16 ∧ ds.getLast? = some last
      ∧ (∀ x ∈ ds, patient s.cfg x.1) ∧ s.status.dmaFails = 0#8
      ∧ follows 5 (failingScript s.toEngine (.write .half s.regs.a (busValue .half s.regs.b)) ds) s :=
  ⟨⟨answering 5 (readFails .word (List.replicate 16 (1, 7#32))) ((List.replicate 16 (1, 7#32)).flatMap failedWords)
        { operands 0#32 0x1FC00000#32 0#32 dmaReady with
          status := { dmaReady.status with dmaErr := true, dmaFails := 0xFF#8 } },
      List.replicate 16 (1, 7#32), (1, 7#32), ready_at rfl rfl rfl rfl, rfl, rfl, (fun _ _ _ hb => nomatch hb), rfl,
      follows_answering (by decide +kernel) (by decide +kernel)⟩,
    ⟨answering 5 (writeFails .half 0#32 (List.replicate 16 (0, 0#32))) ((List.replicate 16 (0, 0#32)).flatMap failedWords)
        (operands 0#32 0x1FC00000#32 0#32 dmaReady),
      List.replicate 16 (0, 0#32), (0, 0#32), ready_at rfl rfl rfl rfl, rfl, rfl, (fun _ _ _ hb => nomatch hb), rfl,
      follows_answering (by decide +kernel) (by decide +kernel)⟩⟩

theorem witness_PollTimeouts_dstrt : ∃ (s : State) (failed : List (Nat × Word)) (script : List Exchange), ready 5 s
    ∧ pollBound s.cfg = some 2 ∧ skipsDstrtPoll s.cfg s.session = false ∧ s.session.useDma = true ∧ failed.length = 15
    ∧ (∀ y ∈ failed, patient s.cfg y.1)
    ∧ script = failingScript s.toEngine (.read .word s.regs.a) failed ++ startScript s.cfg (.read .word s.regs.a)
      ++ List.replicate 2 (dstrtTurn s.cfg true)
    ∧ follows 5 script s :=
  ⟨answering 5 (readFails .word (List.replicate 15 (1, 7#32)) ++ startScript params (.read .word 0x1FC00000#32)
        ++ List.replicate 2 (dstrtTurn params true))
      ((List.replicate 15 (1, 7#32)).flatMap failedWords ++ [0#32, 0#32, 0x800#32, 0x800#32])
      (operands 0#32 0x1FC00000#32 0#32 (bounded 1 dmaReady)),
    List.replicate 15 (1, 7#32), _, ready_at rfl rfl rfl rfl, rfl, rfl, rfl, rfl,
    (fun x h b hb => by cases hb; rw [List.eq_of_mem_replicate h]; decide), rfl,
    follows_answering (by decide +kernel) (by decide +kernel)⟩

theorem witness_PollStaysBusy : (∃ (s : State) (script : List Exchange) (driving : Nat), ready 5 s
      ∧ pollBound s.cfg = none ∧ skipsDstrtPoll s.cfg s.session = false
      ∧ script = startScript s.cfg (.read .word s.regs.a) ++ List.replicate 2 (dstrtTurn s.cfg true)
      ∧ answered 5 s.cable 0 s.tap.irCache script = true
      ∧ driving = (scriptClocks 5 s.tap.irCache script).length ∧ driving = clocksAllowed s)
    ∧ ∃ (s : State) (m : ModuleId) (script : List Exchange) (driving k : Nat), ready 5 s ∧ pollBound s.cfg = none
      ∧ moduleIdOf s.regs.a = some m ∧ moduleWords s.cfg m ≠ [] ∧ script = waitingScript s.cfg 2
      ∧ answered 5 s.cable 0 s.tap.irCache script = true
      ∧ driving = (scriptClocks 5 s.tap.irCache script).length ∧ driving ≤ k + clocksAllowed s
      ∧ k + clocksAllowed s < driving + 37 :=
  ⟨⟨answering 5 (startScript params (.read .word 0#32) ++ List.replicate 2 (dstrtTurn params true))
        [0#32, 0#32, 0x800#32, 0x800#32] (limited 169 dmaReady), _, _, ready_at rfl rfl rfl rfl, rfl, rfl, rfl,
      (follows_answering (s := dmaReady) (by decide) (by decide)).1, rfl, by decide +kernel⟩,
    ⟨answering 5 (waitingScript params 2) [0#32, 0#32] (limited 49 (idleTap 5)), .readWord, _, _, 50,
      ready_at rfl rfl rfl rfl, rfl, rfl, by decide, rfl,
      (follows_answering (s := idleTap 5) (by decide) (by decide)).1, rfl, by decide +kernel, by decide +kernel⟩⟩

theorem witness_HalfwordLanes : (2#32).getLsbD 1 = true ∧ (1#32).getLsbD 1 = false := by decide

/-- CONTROL values that show a pending read and a pending write. -/
theorem witness_shows : showsRead params 0x00040000#32 ∧ showsWrite params 0x000C0000#32 :=
  ⟨⟨rfl, rfl⟩, ⟨rfl, rfl⟩⟩

/-- Nothing is impatient of a poll that is not bounded, or bounded above it. -/
theorem patient_unbounded (n : Nat) : patient params n := fun _ h => nomatch h

theorem patient_bounded {n k : Nat} {s : State} (h : k ≤ n) : patient (bounded n s).cfg k := fun b hb => by
  cases hb
  exact Nat.lt_succ_of_le h

/-- What the target answers when it makes an access: the polls that find nothing, CONTROL, the address, and DATA. -/
def serviceWords : Service → List Word
  | .fetch waits c a => List.replicate waits 0#32 ++ [c, a, 0#32, 0#32]
  | .store waits c a d => List.replicate waits 0#32 ++ [c, a, d, 0#32]

/-- A state in which the target is about to make the accesses of a run, and then, after `waits` polls, to read at `a`. -/
def makes (words : List Word) (v : VirtualRegs) (run : List Service) (waits : Nat) (a : Word) (s : State) : State :=
  answering 5 (runScript s.cfg words v run ++ waitingScript s.cfg waits ++ pendingScript s.cfg 0x00040000#32 a)
    (run.flatMap serviceWords ++ List.replicate waits 0#32 ++ [0x00040000#32, a]) s

/-- A run of accesses: a waiting vector fetch, a store below the virtual registers, a fetch of the second module word, a
store to address_register, reads of both virtual registers and of another address below the vector. -/
def longRun : List Service :=
  [.fetch 1 0x00040000#32 0xFF200200#32, .store 0 0x000C0000#32 0xFF200100#32 5#32,
    .fetch 0 0x00040000#32 0xFF200204#32, .store 2 0x000C0000#32 0xFF200000#32 6#32,
    .fetch 0 0x00040000#32 0xFF200000#32, .fetch 0 0x00040000#32 0xFF200004#32, .fetch 0 0x00040000#32 0x00000000#32]

/-- The virtual registers a module run starts with. -/
def startRegs : VirtualRegs := { afterReset.vregs with vectorReads := 0 }

/-- The words of the module run. -/
def runWords : List Word := [0x11#32, 0x12#32]

theorem legal_longRun {p : Params} (hp : patient p 2) (hq : patient p 1) (hz : patient p 0) (ha : p.ctl = params.ctl)
    (hv : p.debugVector = params.debugVector) (hx : p.vregAddr = params.vregAddr) (hy : p.vregData = params.vregData) :
    runLegal p runWords startRegs longRun := by
  simp only [longRun, runLegal, serviceLegal, serviceRegs, showsRead, showsWrite, readAnswer, ha, hv, hx, hy]
  exact ⟨⟨hq, by decide, by decide⟩, ⟨hz, by decide⟩, ⟨hz, by decide, by decide⟩, ⟨hp, by decide⟩,
    ⟨hz, by decide, by decide⟩, ⟨hz, by decide, by decide⟩, ⟨hz, by decide, by decide⟩, trivial⟩

theorem witness_ExecModuleVector : ∃ (s : State) (m : ModuleId) (words : List Word) (v : VirtualRegs)
    (run : List Service) (waits : Nat) (script : List Exchange), ready 5 s ∧ pollBound s.cfg = some 8
    ∧ moduleIdOf s.regs.a = some m ∧ m ≠ .returnFromDebug ∧ words = moduleWords s.cfg m
    ∧ v = { s.vregs with vectorReads := 0 } ∧ run.length = 7 ∧ waits = 7
    ∧ endsAtVector 5 s words v run waits 0x00040000#32 script :=
  ⟨makes runWords startRegs longRun 7 0xFF200200#32 (operands 0#32 0#32 0#32 (bounded 7 (idleTap 5))),
    .readWord, _, _, longRun, 7, _, ready_at rfl rfl rfl rfl, rfl, rfl, by decide, rfl, rfl, rfl, rfl, by decide,
    legal_longRun (patient_bounded (by decide)) (patient_bounded (by decide)) (patient_bounded (by decide)) rfl rfl rfl
      rfl,
    by decide, patient_bounded (by decide), patient_bounded (by decide), witness_shows.1, rfl,
    follows_answering (by decide +kernel) (by decide +kernel)⟩

/-- The modules of 95_test_vectors.md 4.2: a read-word module of five words. -/
def traceModules : Modules :=
  { params.modules with readWord := [0xA0#32, 0xA1#32, 0xA2#32, 0xA3#32, 0xA4#32] }

/-- The script of 95_test_vectors.md 4.2, up to the second vector read. -/
def traceRun : List Service :=
  [.fetch 0 0x00040000#32 0xFF200200#32, .fetch 0 0x00040000#32 0xFF200204#32, .fetch 0 0x00040000#32 0xFF200000#32,
    .fetch 0 0x00040000#32 0xFF200208#32, .fetch 0 0x00040000#32 0xFF20020C#32,
    .store 0 0x000C0000#32 0xFF200004#32 0x3C1CBFC0#32, .fetch 0 0x00040000#32 0xFF200210#32]

/-- The state before line 5 of 95_test_vectors.md 4.2: PROC_HALT has left CONTROL as the target's instruction. -/
def traceStart : State :=
  operands 0x30#32 0x1FC00000#32 0#32 { idleTap 5 with
    cfg := { params with modules := traceModules }, tap := { irCache := some 0x0A#32, irLength := some 5 } }

/-- The virtual registers with the address of that read, and with some data. -/
def addressed (d : Word) : VirtualRegs := { startRegs with address := 0xBFC00000#32, data := d }

/-- The state in which the target makes the accesses of 4.2. -/
def traceState : State := makes traceModules.readWord (addressed 0#32) traceRun 0 0xFF200200#32 traceStart

/-- 4.2, line 5, as the statement PraccRead gives it: the number of clocks and the executor's registers at the end. -/
theorem test_pracc_trace : (scriptClocks 5 (some 0x0A#32) (runScript traceStart.cfg traceModules.readWord (addressed 0#32)
        traceRun ++ waitingScript traceStart.cfg 0
        ++ pendingScript traceStart.cfg 0x00040000#32 0xFF200200#32)).length = 1352
    ∧ runRegs traceStart.cfg traceModules.readWord (addressed 0#32) traceRun
      = ⟨0xBFC00000#32, 0x3C1CBFC0#32, 0xA4#32, 1⟩ := by decide +kernel

theorem legal_traceRun : runLegal traceStart.cfg traceModules.readWord (addressed 0#32) traceRun := by
  simp only [traceRun, runLegal, serviceLegal, serviceRegs]
  exact ⟨⟨patient_unbounded 0, witness_shows.1, by decide⟩, ⟨patient_unbounded 0, witness_shows.1, by decide⟩,
    ⟨patient_unbounded 0, witness_shows.1, by decide⟩, ⟨patient_unbounded 0, witness_shows.1, by decide⟩,
    ⟨patient_unbounded 0, witness_shows.1, by decide⟩, ⟨patient_unbounded 0, witness_shows.2⟩,
    ⟨patient_unbounded 0, witness_shows.1, by decide⟩, trivial⟩

/-- A module that only makes its first fetch, after some polls. -/
def vectorOnly : List Service := [.fetch 2 0x00040000#32 0xFF200200#32]

/-- A module that loads both virtual registers. -/
def loadRun : List Service :=
  [.fetch 0 0x00040000#32 0xFF200200#32, .fetch 3 0x00040000#32 0xFF200000#32, .fetch 0 0x00040000#32 0xFF200004#32]

/-- A module that stores at P_VREG_DATA. -/
def storeRun : List Service :=
  [.fetch 0 0x00040000#32 0xFF200200#32, .store 1 0x000C0000#32 0xFF200004#32 0xBFC00384#32]

theorem legal_vectorOnly {w : Word} {v : VirtualRegs} : runLegal params [w] v vectorOnly := by
  simp only [vectorOnly, runLegal, serviceLegal]
  exact ⟨⟨patient_unbounded 2, witness_shows.1, (fun h => nomatch h)⟩, trivial⟩

theorem legal_loadRun {w : Word} {v : VirtualRegs} : runLegal params [w] v loadRun := by
  simp only [loadRun, runLegal, serviceLegal]
  exact ⟨⟨patient_unbounded 0, witness_shows.1, (fun h => nomatch h)⟩, ⟨patient_unbounded 3, witness_shows.1, (fun h => nomatch h)⟩,
    ⟨patient_unbounded 0, witness_shows.1, (fun h => nomatch h)⟩, trivial⟩

theorem legal_storeRun {w : Word} {v : VirtualRegs} : runLegal params [w] v storeRun := by
  simp only [storeRun, runLegal, serviceLegal]
  exact ⟨⟨patient_unbounded 0, witness_shows.1, (fun h => nomatch h)⟩, ⟨patient_unbounded 1, witness_shows.2⟩, trivial⟩

/-- The run of 4.2 for a word, and a module that never stores for a halfword. -/
theorem witness_PraccRead : (∃ (s : State) (words : List Word) (v : VirtualRegs) (run : List Service)
      (script : List Exchange), ready 5 s ∧ s.session.useDma = false ∧ words = s.cfg.modules.readWord
      ∧ v = { s.vregs with address := s.regs.a ||| s.cfg.kseg1Bit, vectorReads := 0 } ∧ run.length = 7
      ∧ endsAtVector 5 s words v run 0 0x00040000#32 script)
    ∧ ∃ (s : State) (words : List Word) (v : VirtualRegs) (run : List Service) (waits : Nat) (script : List Exchange),
      ready 5 s ∧ s.session.useDma = false ∧ words = s.cfg.modules.readHalf ∧ s.vregs.data = 0x11223344#32
      ∧ v = { s.vregs with address := s.regs.a ||| s.cfg.kseg1Bit, vectorReads := 0 } ∧ run.length = 1 ∧ waits = 4
      ∧ endsAtVector 5 s words v run waits 0x00040000#32 script :=
  ⟨⟨traceState, _, addressed 0#32, traceRun, _, ready_at rfl rfl rfl rfl, rfl, rfl, by decide, rfl,
      by decide, legal_traceRun, by decide, patient_unbounded 7, patient_unbounded 0, witness_shows.1, rfl,
      follows_answering (by decide +kernel) (by decide +kernel)⟩,
    ⟨makes [0x31#32] (addressed 0x11223344#32) vectorOnly 4 0xFF200200#32
        (operands 0#32 0x1FC00000#32 0#32 { idleTap 5 with vregs := { startRegs with data := 0x11223344#32 } }),
      _, addressed 0x11223344#32, vectorOnly, 4, _, ready_at rfl rfl rfl rfl, rfl, rfl, rfl, by decide, rfl, rfl,
      by decide, legal_vectorOnly, by decide, patient_unbounded 1, patient_unbounded 4, witness_shows.1, rfl,
      follows_answering (by decide +kernel) (by decide +kernel)⟩⟩

theorem witness_PraccWrite : (∃ (s : State) (words : List Word) (v : VirtualRegs) (run : List Service)
      (waits : Nat) (script : List Exchange), ready 5 s ∧ s.session.useDma = false ∧ words = s.cfg.modules.writeWord
      ∧ v = { s.vregs with
        address := s.regs.a ||| s.cfg.kseg1Bit, data := busValue .word s.regs.b, vectorReads := 0 }
      ∧ run.length = 3 ∧ waits = 1 ∧ endsAtVector 5 s words v run waits 0x00040000#32 script)
    ∧ ∃ (s : State) (words : List Word) (v : VirtualRegs) (run : List Service) (waits : Nat) (script : List Exchange),
      ready 5 s ∧ s.session.useDma = false ∧ words = s.cfg.modules.writeHalf
      ∧ v = { s.vregs with
        address := s.regs.a ||| s.cfg.kseg1Bit, data := busValue .half s.regs.b, vectorReads := 0 }
      ∧ run.length = 3 ∧ waits = 0 ∧ endsAtVector 5 s words v run waits 0x00040000#32 script :=
  ⟨⟨makes [0x21#32] (addressed 0x11223344#32) loadRun 1 0xFF200200#32
        (operands 0#32 0x1FC00000#32 0x11223344#32 (idleTap 5)),
      _, addressed 0x11223344#32, loadRun, 1, _, ready_at rfl rfl rfl rfl, rfl, rfl, by decide, rfl, rfl, by decide,
      legal_loadRun, by decide, patient_unbounded 3, patient_unbounded 1, witness_shows.1, rfl,
      follows_answering (by decide +kernel) (by decide +kernel)⟩,
    ⟨makes [0x41#32] (addressed 0x33443344#32) loadRun 0 0xFF200200#32
        (operands 0#32 0x1FC00000#32 0x11223344#32 (idleTap 5)),
      _, addressed 0x33443344#32, loadRun, 0, _, ready_at rfl rfl rfl rfl, rfl, rfl, by decide, rfl, rfl, by decide,
      legal_loadRun, by decide, patient_unbounded 3, patient_unbounded 0, witness_shows.1, rfl,
      follows_answering (by decide +kernel) (by decide +kernel)⟩⟩

theorem witness_DepcAccess : (∃ (s : State) (words : List Word) (v : VirtualRegs) (run : List Service) (waits : Nat)
      (script : List Exchange), ready 5 s ∧ words = s.cfg.modules.readDepc ∧ v = { s.vregs with vectorReads := 0 }
      ∧ run.length = 2 ∧ waits = 0 ∧ endsAtVector 5 s words v run waits 0x00040000#32 script)
    ∧ ∃ (s : State) (words : List Word) (v : VirtualRegs) (run : List Service) (waits : Nat) (script : List Exchange),
      ready 5 s ∧ words = s.cfg.modules.writeDepc ∧ v = { s.vregs with data := s.regs.a, vectorReads := 0 }
      ∧ run.length = 3 ∧ waits = 2 ∧ endsAtVector 5 s words v run waits 0x00040000#32 script :=
  ⟨⟨makes [0x61#32] startRegs storeRun 0 0xFF200200#32 (idleTap 5), _, startRegs, storeRun, 0, _,
      ready_at rfl rfl rfl rfl, rfl, rfl, rfl, rfl, by decide, legal_storeRun, by decide, patient_unbounded 2,
      patient_unbounded 0, witness_shows.1, rfl, follows_answering (by decide +kernel) (by decide +kernel)⟩,
    ⟨makes [0x71#32] { startRegs with data := 0xBFC00000#32 } loadRun 2 0xFF200200#32
        (operands 0#32 0xBFC00000#32 0#32 (idleTap 5)), _, { startRegs with data := 0xBFC00000#32 }, loadRun, 2, _,
      ready_at rfl rfl rfl rfl, rfl, rfl, rfl, rfl, by decide, legal_loadRun, by decide, patient_unbounded 3,
      patient_unbounded 2, witness_shows.1, rfl, follows_answering (by decide +kernel) (by decide +kernel)⟩⟩

theorem witness_PollTimeouts_pending : ∃ (s : State) (m : ModuleId) (words : List Word) (v : VirtualRegs)
    (run : List Service) (script : List Exchange), ready 5 s ∧ pollBound s.cfg = some 8
    ∧ moduleIdOf s.regs.a = some m ∧ m ≠ .returnFromDebug ∧ words = moduleWords s.cfg m ∧ words ≠ []
    ∧ v = { s.vregs with vectorReads := 0 } ∧ runLegal s.cfg words v run ∧ vectorFetches s.cfg run = 1
    ∧ run.length = 7 ∧ script = runScript s.cfg words v run ++ waitingScript s.cfg 8 ∧ follows 5 script s :=
  ⟨answering 5 (runScript params runWords startRegs longRun ++ waitingScript params 8)
      (longRun.flatMap serviceWords ++ List.replicate 8 0#32) (operands 0#32 0#32 0#32 (bounded 7 (idleTap 5))),
    .readWord, _, _, longRun, _, ready_at rfl rfl rfl rfl, rfl, rfl, by decide, rfl, by decide, rfl,
    legal_longRun (patient_bounded (by decide)) (patient_bounded (by decide)) (patient_bounded (by decide)) rfl rfl rfl
      rfl,
    by decide, rfl, rfl, follows_answering (by decide +kernel) (by decide +kernel)⟩

theorem witness_PollTimeouts_service : ∃ (s : State) (m : ModuleId) (words : List Word) (v : VirtualRegs)
    (run : List Service) (x : Service) (script : List Exchange), ready 5 s ∧ pollBound s.cfg = some 7
    ∧ moduleIdOf s.regs.a = some m ∧ m ≠ .returnFromDebug ∧ words = moduleWords s.cfg m ∧ words ≠ []
    ∧ v = { s.vregs with vectorReads := 0 } ∧ runLegal s.cfg words v run ∧ vectorFetches s.cfg run ≤ 1
    ∧ run.length = 7 ∧ run.getLast? = some x ∧ script = runScript s.cfg words v run ∧ follows 5 script s :=
  ⟨answering 5 (runScript params runWords startRegs longRun) (longRun.flatMap serviceWords)
      (operands 0#32 0#32 0#32 (bounded 6 (idleTap 5))),
    .readWord, _, _, longRun, _, _, ready_at rfl rfl rfl rfl, rfl, rfl, by decide, rfl, by decide, rfl,
    legal_longRun (patient_bounded (by decide)) (patient_bounded (by decide)) (patient_bounded (by decide)) rfl rfl rfl
      rfl,
    by decide, rfl, rfl, rfl, follows_answering (by decide +kernel) (by decide +kernel)⟩

/-- Three fetches of the first word of the return-from-debug module. -/
def vectorRun : List Service := List.replicate 3 (.fetch 0 0x00040000#32 0xFF200200#32)

/-- The run, up to the last word, at offset 1. -/
def lastRun : List Service := vectorRun ++ [.fetch 1 0x00040000#32 0xFF200204#32]

theorem legal_lastRun : runLegal params [0x51#32, 0x52#32] startRegs lastRun := by
  simp only [lastRun, vectorRun, List.replicate, List.cons_append, List.nil_append, runLegal, serviceLegal,
    serviceRegs, showsRead, readAnswer]
  exact ⟨⟨patient_unbounded 0, by decide, by decide⟩, ⟨patient_unbounded 0, by decide, by decide⟩,
    ⟨patient_unbounded 0, by decide, by decide⟩, ⟨patient_unbounded 1, by decide, by decide⟩, trivial⟩

theorem witness_LastWordEnds : ∃ (s : State) (words : List Word) (v : VirtualRegs) (run : List Service) (a : Word)
    (script : List Exchange), ready 5 s ∧ words = s.cfg.modules.returnFromDebug ∧ words ≠ [] ∧ s.cfg.debugVector ≤ a
    ∧ moduleOffset s.cfg a = words.length - 1 ∧ v = { s.vregs with vectorReads := 0 }
    ∧ run.length = 3 ∧ runLegal s.cfg words v (run ++ [.fetch 1 0x00040000#32 a])
    ∧ (∀ n b x, Service.fetch n b x ∈ run → s.cfg.debugVector ≤ x → moduleOffset s.cfg x ≠ words.length - 1)
    ∧ patient s.cfg run.length ∧ script = runScript s.cfg words v (run ++ [.fetch 1 0x00040000#32 a])
    ∧ follows 5 script s ∧ s.regs.a = 4#32 :=
  ⟨answering 5 (runScript params [0x51#32, 0x52#32] startRegs lastRun)
      (lastRun.flatMap serviceWords) (operands 0#32 4#32 0#32 (idleTap 5)),
    [0x51#32, 0x52#32], startRegs, vectorRun, 0xFF200204#32, _, ready_at rfl rfl rfl rfl, rfl, by decide, by decide,
    by decide, rfl, rfl, legal_lastRun,
    (fun n b x h _ => by cases List.eq_of_mem_replicate h; decide), patient_unbounded 3, rfl,
    follows_answering (by decide +kernel) (by decide +kernel), rfl⟩

/-- Every read of the vector is counted (42_debug_executor.md R138), and the field of 10_state.md R40 stays in 0..2. -/
theorem test_vector_reads : (next? (exec .procResume (answering 5 (runScript params [0x51#32, 0x52#32] startRegs lastRun)
      (lastRun.flatMap serviceWords) (idleTap 5)))).map (fun t => (t.vregs.vectorReads, execVectorReads t.vregs))
    = some (3, 2) := by decide +kernel

/-- A fetch after the last word of the module: after the long run, and after three vector reads of the return-from-debug
module. -/
theorem witness_ExecutorFaults : (∃ (s : State), ready 5 s ∧ s.regs.a.toNat = 7)
    ∧ (∀ a ∈ [0#32, 6#32], ∃ (s : State) (m : ModuleId), ready 5 s ∧ s.regs.a = a ∧ moduleIdOf s.regs.a = some m
      ∧ moduleWords s.cfg m = [])
    ∧ ∀ far ∈ [ModuleId.readWord, .returnFromDebug], ∃ (s : State) (words : List Word) (v : VirtualRegs)
      (run : List Service) (waits : Nat) (a : Word) (script : List Exchange), ready 5 s
      ∧ moduleIdOf s.regs.a = some far ∧ words = moduleWords s.cfg far ∧ words ≠ []
      ∧ v = { s.vregs with vectorReads := 0 } ∧ runLegal s.cfg words v run ∧ run ≠ []
      ∧ (far ≠ .returnFromDebug → vectorFetches s.cfg run ≤ 1)
      ∧ (far = .returnFromDebug → ∀ n b x, Service.fetch n b x ∈ run → s.cfg.debugVector ≤ x →
        moduleOffset s.cfg x ≠ words.length - 1)
      ∧ patient s.cfg run.length ∧ patient s.cfg waits ∧ showsRead s.cfg 0x00040000#32
      ∧ s.cfg.debugVector ≤ a ∧ words.length = moduleOffset s.cfg a
      ∧ script = runScript s.cfg words v run ++ waitingScript s.cfg waits ++ pendingScript s.cfg 0x00040000#32 a
      ∧ follows 5 script s := by
  refine ⟨⟨operands 0#32 7#32 0#32 (idleTap 5), ready_at rfl rfl rfl rfl, rfl⟩,
    fun a h => ?_, ?_⟩
  · simp only [List.mem_cons, List.not_mem_nil, or_false] at h
    obtain rfl | rfl := h
    · exact ⟨operands 0#32 0#32 0#32 (withoutModules (idleTap 5)), .readWord, ready_at rfl rfl rfl rfl, rfl, rfl, rfl⟩
    · exact ⟨operands 0#32 6#32 0#32 (withoutModules (idleTap 5)), .writeDepc, ready_at rfl rfl rfl rfl, rfl, rfl, rfl⟩
  intro far h
  simp only [List.mem_cons, List.not_mem_nil, or_false] at h
  obtain rfl | rfl := h
  · exact ⟨makes runWords startRegs longRun 1 0xFF200208#32 (operands 0#32 0#32 0#32 (idleTap 5)), _, _, longRun, 1,
      0xFF200208#32, _, ready_at rfl rfl rfl rfl, rfl, rfl, by decide, rfl,
      legal_longRun (patient_unbounded 2) (patient_unbounded 1) (patient_unbounded 0) rfl rfl rfl rfl, by decide,
      (fun _ => by decide), (fun h => nomatch h), patient_unbounded 7, patient_unbounded 1, witness_shows.1, by decide,
      by decide, rfl, follows_answering (by decide +kernel) (by decide +kernel)⟩
  · exact ⟨makes [0x51#32, 0x52#32] startRegs vectorRun 0 0xFF200208#32 (operands 0#32 4#32 0#32 (idleTap 5)), _, _,
      vectorRun, 0, 0xFF200208#32, _, ready_at rfl rfl rfl rfl, rfl, rfl, by decide, rfl,
      by
        simp only [vectorRun, List.replicate, runLegal, serviceLegal]
        exact ⟨⟨patient_unbounded 0, witness_shows.1, by decide⟩, ⟨patient_unbounded 0, witness_shows.1, by decide⟩,
          ⟨patient_unbounded 0, witness_shows.1, by decide⟩, trivial⟩,
      by decide, (fun h => absurd rfl h), (fun _ n b x h _ => by cases List.eq_of_mem_replicate h; decide),
      patient_unbounded 3, patient_unbounded 0, witness_shows.1, by decide, by decide, rfl,
      follows_answering (by decide +kernel) (by decide +kernel)⟩

/-- Each module of a list is the first one missing in some state that the statement speaks of. -/
theorem witness_ExecutorFaults_modules :
    (∃ s : State, ready 5 s ∧ s.session.useDma = false ∧ s.cfg.modules = ⟨[], [], [], [], [], [], []⟩)
    ∧ (∃ s : State, ready 5 s ∧ s.session.useDma = false ∧ s.session.spiLayout ≠ none ∧ s.cfg.flashTable = []
      ∧ firstMissing [(s.cfg.modules.writeHalf, 3#32), (s.cfg.modules.readHalf, 2#32), (s.cfg.modules.writeWord, 1#32),
        (s.cfg.modules.readWord, 0#32)] = some 0#32)
    ∧ (∀ bypass : Bool, ∃ s : State, ready 5 s ∧ s.session.useDma = false ∧ amdStyle s.toEngine
      ∧ s.flash.bypassActive = bypass ∧ firstMissing [(s.cfg.modules.writeHalf, 3#32)] = some 3#32)
    ∧ (∃ s : State, ready 5 s ∧ s.session.useDma = false ∧ bscStyle s.toEngine ∧ s.area.valid = true
      ∧ s.flash.size ≠ 0#32 ∧ s.area.length ≠ 0#32
      ∧ (∃ a ∈ s.flash.blockTable, s.area.start.toNat ≤ a.toNat ∧ a.toNat < s.area.start.toNat + s.area.length.toNat)
      ∧ firstMissing [(s.cfg.modules.writeHalf, 3#32), (s.cfg.modules.readHalf, 2#32)] = some 2#32)
    ∧ (∃ s : State, ready 5 s ∧ s.session.useDma = false ∧ spiStyle s.toEngine ∧ s.area.valid = true
      ∧ s.flash.size ≠ 0#32 ∧ s.area.length ≠ 0#32
      ∧ (∃ a ∈ s.flash.blockTable, s.area.start.toNat ≤ a.toNat ∧ a.toNat < s.area.start.toNat + s.area.length.toNat)
      ∧ firstMissing [(s.cfg.modules.writeWord, 1#32), (s.cfg.modules.readWord, 0#32)] = some 0#32)
    ∧ ∀ faulted : Bool, ∃ s : State, s.running = none ∧ s.cable.shadow = some .runTestIdle ∧ s.tap.irLength = some 5
      ∧ s.session.useDma = false ∧ amdStyle s.toEngine ∧ s.cfg.modules.writeHalf = [] ∧ s.status.faulted = faulted :=
  ⟨⟨withoutModules (idleTap 5), ready_at rfl rfl rfl rfl, rfl, rfl⟩,
    ⟨lacking (fun m => { m with readWord := [] }) (emptyTable (withSpi dmaReady)), ready_at rfl rfl rfl rfl, rfl,
      by decide, rfl, by decide⟩,
    (fun
      | false => ⟨withoutModules amdPart, ready_at rfl rfl rfl rfl, rfl, .inl rfl, rfl, rfl⟩
      | true => ⟨withoutModules (inBypass amdPart), ready_at rfl rfl rfl rfl, rfl, .inl rfl, rfl, rfl⟩),
    ⟨withArea 0x1C000000#32 1#32 (lacking (fun m => { m with readHalf := [] }) bscPart), ready_at rfl rfl rfl rfl, rfl,
      .inl rfl, rfl, by decide, by decide, ⟨0x1C000000#32, by decide +kernel, by decide, by decide⟩, by decide⟩,
    ⟨withArea 0x1C000000#32 1#32 (lacking (fun m => { m with readWord := [] }) spiPart), ready_at rfl rfl rfl rfl, rfl,
      ⟨rfl, by decide⟩, rfl, by decide, by decide, ⟨0x1C000000#32, by decide +kernel, by decide, by decide⟩, by decide⟩,
    (fun
      | false => ⟨withoutModules amdPart, rfl, rfl, rfl, rfl, .inl rfl, rfl, rfl⟩
      | true => ⟨withoutModules (faultTaken amdPart), rfl, rfl, rfl, rfl, .inl rfl, rfl, rfl⟩)⟩

/-- What the NOR trials read: the vendor, the device, and the sub-ID bytes. -/
def idReplies (v d : Word) (m l : Word) : IdReplies := ⟨v, d, m, l⟩

/-- All ones, which is in no table. -/
def noPart : IdReplies := ⟨0xFFFFFFFF#32, 0xFFFFFFFF#32, 0#32, 0#32⟩

/-- An SPI part in the table. -/
def withSpiEntry (s : State) : State :=
  { s with cfg := { s.cfg with flashTable := s.cfg.flashTable
      ++ [⟨0x0020#16, 0x2016#16, 0x400000#32, .spi, "spi", .one ⟨64#32, 0x10000#32⟩⟩] } }

/-- The hypotheses of the statement ProbeFound. -/
def probeFinds (s : State) (amd sst bsc : IdReplies) (free rdid base b : Word)
    (trials : List ((Half × Half) × List (Access × Word))) (found : (Half × Half) × List (Access × Word)) (n k : Nat)
    (x : FlashDescriptor) (items : List (Access × Word)) : Prop :=
  ready 5 s ∧ base = (match s.flash.windowOverride with | some o => o | none => s.cfg.flashProbeBase)
    ∧ free.getLsbD (sessionLayout s.toEngine).busyBit = false
    ∧ trials = probeTrials s.toEngine base amd sst bsc free rdid ∧ trials[n]? = some found
    ∧ (∀ y ∈ trials.take n, flashLookup s.cfg y.1.1 y.1.2 = none)
    ∧ flashLookup s.cfg found.1.1 found.1.2 = some k ∧ s.cfg.flashTable[k]? = some x
    ∧ items = (trials.take (n + 1)).flatMap Prod.snd ∧ serves 5 items s
    ∧ b = (match s.flash.windowOverride with
      | some o => o
      | none => flashWindowFor s.cfg s.session.idcode x.size)

/-- A part is found by trial `n` as table entry `k`, for the words read. -/
def probeMet (s0 : State) (amd sst bsc : IdReplies) (rdid : Word) (n k : Nat) : Prop :=
  ∃ (s : State) (trials : List ((Half × Half) × List (Access × Word)))
    (found : (Half × Half) × List (Access × Word)) (x : FlashDescriptor) (b : Word) (items : List (Access × Word)),
    probeFinds s amd sst bsc 0#32 rdid s0.cfg.flashProbeBase b trials found n k x items ∧ s.cfg = s0.cfg

/-- The state in which the target answers the first `n` + 1 trials. -/
def probing (s0 : State) (amd sst bsc : IdReplies) (rdid : Word) (n : Nat) : State :=
  serving 5 (((probeTrials s0.toEngine s0.cfg.flashProbeBase amd sst bsc 0#32 rdid).take (n + 1)).flatMap Prod.snd) s0

/-- The AMD trial: no collision, and both collisions (95_test_vectors.md 2.7, 3.8). -/
theorem witness_ProbeFound : probeMet dmaReady (idReplies 0x000000C2#32 0x22A80000#32 0#32 0#32) noPart noPart 0#32 0 0
    ∧ probeMet dmaReady (idReplies 0x00000001#32 0x227E0000#32 0x22#32 0xDA0000#32) noPart noPart 0#32 0 1
    ∧ probeMet dmaReady (idReplies 0x000000DA#32 0x227E0000#32 0x22#32 0x0A0000#32) noPart noPart 0#32 0 2 :=
  ⟨⟨probing dmaReady (idReplies 0x000000C2#32 0x22A80000#32 0#32 0#32) noPart noPart 0#32 0, _, _, _, _, _,
      ⟨ready_at rfl rfl rfl rfl, rfl, rfl, rfl, rfl, (fun _ h => nomatch h), by decide +kernel, rfl, rfl,
        serves_serving rfl rfl (by decide), rfl⟩, rfl⟩,
    ⟨probing dmaReady (idReplies 0x00000001#32 0x227E0000#32 0x22#32 0xDA0000#32) noPart noPart 0#32 0, _, _, _, _, _,
      ⟨ready_at rfl rfl rfl rfl, rfl, rfl, rfl, rfl, (fun _ h => nomatch h), by decide +kernel, rfl, rfl,
        serves_serving rfl rfl (by decide), rfl⟩, rfl⟩,
    ⟨probing dmaReady (idReplies 0x000000DA#32 0x227E0000#32 0x22#32 0x0A0000#32) noPart noPart 0#32 0, _, _, _, _, _,
      ⟨ready_at rfl rfl rfl rfl, rfl, rfl, rfl, rfl, (fun _ h => nomatch h), by decide +kernel, rfl, rfl,
        serves_serving rfl rfl (by decide), rfl⟩, rfl⟩⟩

/-- The SST, BSC/SCS and SPI trials. -/
theorem witness_ProbeFound_later : probeMet dmaReady noPart (idReplies 0x000000DA#32 0x227E0000#32 0x22#32 0x0A0000#32)
      noPart 0#32 1 2
    ∧ probeMet dmaReady noPart noPart (idReplies 0x00000089#32 0x00180000#32 0#32 0#32) 0#32 2 3
    ∧ probeMet (withSpi (withSpiEntry dmaReady)) noPart noPart noPart 0x00162020#32 3 4 :=
  ⟨⟨probing dmaReady noPart (idReplies 0x000000DA#32 0x227E0000#32 0x22#32 0x0A0000#32) noPart 0#32 1, _, _, _, _, _,
      ⟨ready_at rfl rfl rfl rfl, rfl, rfl, rfl, rfl, by decide +kernel, by decide +kernel, rfl, rfl,
        serves_serving rfl rfl (by decide), rfl⟩, rfl⟩,
    ⟨probing dmaReady noPart noPart (idReplies 0x00000089#32 0x00180000#32 0#32 0#32) 0#32 2, _, _, _, _, _,
      ⟨ready_at rfl rfl rfl rfl, rfl, rfl, rfl, rfl, by decide +kernel, by decide +kernel, rfl, rfl,
        serves_serving rfl rfl (by decide), rfl⟩, rfl⟩,
    ⟨probing (withSpi (withSpiEntry dmaReady)) noPart noPart noPart 0x00162020#32 3, _, _, _, _, _,
      ⟨ready_at rfl rfl rfl rfl, rfl, rfl, rfl, rfl, by decide +kernel, by decide +kernel, rfl, rfl,
        serves_serving rfl rfl (by decide), rfl⟩, rfl⟩⟩

theorem witness_ProbeUnknown : ∀ s0 ∈ [dmaReady, withSpi dmaReady], ∃ (s : State) (amd sst bsc : IdReplies)
      (free rdid base : Word) (trials : List ((Half × Half) × List (Access × Word)))
      (last : (Half × Half) × List (Access × Word)) (items : List (Access × Word)), ready 5 s
    ∧ base = (match s.flash.windowOverride with | some o => o | none => s.cfg.flashProbeBase)
    ∧ free.getLsbD (sessionLayout s.toEngine).busyBit = false
    ∧ trials = probeTrials s.toEngine base amd sst bsc free rdid ∧ trials.getLast? = some last
    ∧ (∀ y ∈ trials, flashLookup s.cfg y.1.1 y.1.2 = none) ∧ items = trials.flatMap Prod.snd ∧ serves 5 items s
    ∧ s.session.spiLayout = s0.session.spiLayout := by
  intro s0 h
  simp only [List.mem_cons, List.not_mem_nil, or_false] at h
  obtain rfl | rfl := h
  · exact ⟨probing dmaReady noPart noPart noPart 0#32 3, noPart, noPart, noPart, 0#32, 0#32, _, _, _, _,
      ready_at rfl rfl rfl rfl, rfl, rfl, rfl, rfl, by decide +kernel, rfl, serves_serving rfl rfl (by decide), rfl⟩
  · exact ⟨probing (withSpi dmaReady) noPart noPart noPart 0#32 3, noPart, noPart, noPart, 0#32, 0#32, _, _, _, _,
      ready_at rfl rfl rfl rfl, rfl, rfl, rfl, rfl, by decide +kernel, rfl, serves_serving rfl rfl (by decide), rfl⟩

theorem witness_FlashForce : (∃ (s : State) (x : FlashDescriptor) (b : Word), accepting s ∧ s.cfg.flashTable[s.regs.a.toNat]? = some x
      ∧ b = (match s.flash.windowOverride with
        | some o => o
        | none => flashWindowFor s.cfg s.session.idcode x.size) ∧ s.regs.a.toNat + 1 = s.cfg.flashTable.length)
    ∧ ∃ (s : State), accepting s ∧ s.cfg.flashTable.length = s.regs.a.toNat :=
  ⟨⟨operands 0#32 3#32 0#32 afterReset, _, _, accepting_operands _ _, rfl, rfl, rfl⟩,
    ⟨operands 0#32 4#32 0#32 afterReset, accepting_operands _ _, rfl⟩⟩

theorem witness_BlockTable : ∃ (r : Region) (n : Nat), n < r.count.toNat ∧ n + 1 = r.count.toNat :=
  ⟨⟨8#32, 0x2000#32⟩, 7, by decide, by decide⟩

theorem witness_AreaSelection :
    (∃ (s : State) (w : Word) (start : Word) (length : Word), accepting s ∧ s.regs.a = 0xFFFFFFFF#32 ∧ s.flash.windowOverride = some w
      ∧ s.area.customStart = some start ∧ s.area.customLength = some length)
    ∧ (∃ (s : State), accepting s ∧ s.regs.a = 0xFFFFFFFF#32 ∧ s.flash.windowOverride = none)
    ∧ (∃ (s : State) (name : String) (d : AreaDescriptor), accepting s ∧ s.regs.a ≠ 0xFFFFFFFF#32 ∧ s.cfg.areaNames[s.regs.a.toNat]? = some name
      ∧ s.cfg.areaTable.find? (fun e => decide (e.capacity = s.flash.size ∧ e.name = name)) = some d)
    ∧ (∃ (s : State) (name : String), accepting s ∧ s.regs.a ≠ 0xFFFFFFFF#32 ∧ s.cfg.areaNames[s.regs.a.toNat]? = some name
      ∧ s.cfg.areaTable.find? (fun e => decide (e.capacity = s.flash.size ∧ e.name = name)) = none)
    ∧ ∃ (s : State), accepting s ∧ s.regs.a ≠ 0xFFFFFFFF#32 ∧ s.cfg.areaNames.length = s.regs.a.toNat :=
  ⟨⟨{ operands 0#32 0xFFFFFFFF#32 0#32 amdPart with
        area := { amdPart.area with customStart := some 0x1C002000#32, customLength := some 8#32 } }, _, _, _,
      ⟨rfl, rfl⟩, rfl, rfl, rfl, rfl⟩,
    ⟨operands 0#32 0xFFFFFFFF#32 0#32 afterReset, accepting_operands _ _, rfl, rfl⟩,
    ⟨operands 0#32 2#32 0#32 amdPart, "KERNEL", ⟨0x400000#32, "KERNEL", 0x1FC40000#32, 0x3B0000#32⟩, ⟨rfl, rfl⟩,
      by decide, rfl, by decide⟩,
    ⟨operands 0#32 0#32 0#32 amdPart, "CFE", ⟨rfl, rfl⟩, by decide, rfl, by decide⟩,
    ⟨operands 0#32 3#32 0#32 afterReset, accepting_operands _ _, by decide, rfl⟩⟩

theorem witness_NorCycleRows : ∃ s : State, ready 5 s
    ∧ serves 5 [cycle (s.flash.base + (s.cfg.sst.unlock1Offset <<< 1)) s.cfg.sst.unlock1] s :=
  ⟨serving 5 [cycle 0x1C00AAAA#32 0xAA#16] amdPart, ready_at rfl rfl rfl rfl, serves_serving rfl rfl (by decide)⟩

/-- The accesses of an erase, the leaving of bypass mode among them. -/
def eraseRun (a : Word) (s : State) : List (Access × Word) :=
  exitItems s.toEngine ++ eraseItems s.toEngine a 0x80#32 0x80#32 0#32

/-- The WIP bit of the SPI erase is read as 0. -/
def spiEraseRun (a : Word) (s : State) : List (Access × Word) :=
  eraseItems s.toEngine a 0#32 0#32 0#32

theorem witness_FlashErase : (∃ (s : State) (items : List (Access × Word)), ready 5 s ∧ eraseReady s.toEngine s.regs.a 0x80#32 0x80#32 0#32
      ∧ amdStyle s.toEngine ∧ s.flash.bypassActive = true
      ∧ items = exitItems s.toEngine ++ eraseItems s.toEngine s.regs.a 0x80#32 0x80#32 0#32 ∧ serves 5 items s)
    ∧ (∃ (s : State) (items : List (Access × Word)), ready 5 s ∧ eraseReady s.toEngine s.regs.a 0x80#32 0x80#32 0#32 ∧ bscStyle s.toEngine
      ∧ items = eraseItems s.toEngine s.regs.a 0x80#32 0x80#32 0#32 ∧ serves 5 items s)
    ∧ ∃ (s : State) (items : List (Access × Word)), ready 5 s ∧ eraseReady s.toEngine s.regs.a 0#32 0#32 0#32 ∧ spiStyle s.toEngine
      ∧ items = eraseItems s.toEngine s.regs.a 0#32 0#32 0#32 ∧ serves 5 items s :=
  ⟨⟨serving 5 (eraseRun 0x1C010000#32 (inBypass amdPart)) (operands 0#32 0x1C010000#32 0#32 (inBypass amdPart)), _,
      ready_at rfl rfl rfl rfl, rfl, .inl rfl, rfl, rfl, serves_serving rfl rfl (by decide)⟩,
    ⟨serving 5 (eraseRun 0x1C020000#32 bscPart) (operands 0#32 0x1C020000#32 0#32 bscPart), _,
      ready_at rfl rfl rfl rfl, ⟨rfl, rfl⟩, .inl rfl, rfl, serves_serving rfl rfl (by decide)⟩,
    ⟨serving 5 (spiEraseRun 0x1C010000#32 spiPart) (operands 0#32 0x1C010000#32 0#32 spiPart), _,
      ready_at rfl rfl rfl rfl, ⟨rfl, rfl⟩, ⟨rfl, by decide⟩, rfl, serves_serving rfl rfl (by decide)⟩⟩

/-- opt_bypass set. -/
def optBypass (s : State) : State := { s with options := { s.options with bypass := true } }

/-- The accesses of a program on an AMD-style part. -/
def programRun (bypass : Bool) (a w r1 r2 : Word) (s : State) : List (Access × Word) :=
  (if s.options.bypass = true then enterItems s.toEngine else []) ++ programItems s.toEngine bypass a w r1 r2 0#32

theorem witness_FlashProgram :
    (∃ (s : State) (r1 : Word) (r2 : Word) (bypass : Bool) (items : List (Access × Word)), ready 5 s ∧ programReady s.toEngine s.regs.a s.regs.b r1 r2 0#32
      ∧ bypass = programsInBypass s.toEngine ∧ bypass = true ∧ amdStyle s.toEngine
      ∧ items = (if s.options.bypass = true then enterItems s.toEngine else [])
          ++ programItems s.toEngine bypass s.regs.a s.regs.b r1 r2 0#32 ∧ serves 5 items s)
    ∧ (∃ (s : State) (r1 : Word) (r2 : Word) (bypass : Bool) (items : List (Access × Word)), ready 5 s ∧ programReady s.toEngine s.regs.a s.regs.b r1 r2 0#32
      ∧ bypass = programsInBypass s.toEngine ∧ bypass = false ∧ amdStyle s.toEngine
      ∧ items = (if s.options.bypass = true then enterItems s.toEngine else [])
          ++ programItems s.toEngine bypass s.regs.a s.regs.b r1 r2 0#32 ∧ serves 5 items s)
    ∧ (∃ (s : State) (r1 : Word) (r2 : Word) (items : List (Access × Word)), ready 5 s ∧ programReady s.toEngine s.regs.a s.regs.b r1 r2 0#32
      ∧ false = programsInBypass s.toEngine ∧ bscStyle s.toEngine
      ∧ items = programItems s.toEngine false s.regs.a s.regs.b r1 r2 0#32 ∧ serves 5 items s)
    ∧ ∃ (s : State) (r1 : Word) (r2 : Word) (items : List (Access × Word)), ready 5 s ∧ programReady s.toEngine s.regs.a s.regs.b r1 r2 0#32
      ∧ false = programsInBypass s.toEngine ∧ spiStyle s.toEngine
      ∧ items = programItems s.toEngine false s.regs.a s.regs.b r1 r2 0#32 ∧ serves 5 items s :=
  ⟨⟨serving 5 (programRun true 0x1C000100#32 0x11223344#32 0x3344#32 0x11220000#32 (optBypass amdPart))
        (operands 0#32 0x1C000100#32 0x11223344#32 (optBypass amdPart)), 0x3344#32, 0x11220000#32, true, _,
      ready_at rfl rfl rfl rfl, ⟨rfl, rfl⟩, rfl, rfl, .inl rfl, rfl, serves_serving rfl rfl (by decide)⟩,
    ⟨serving 5 (programRun false 0x1C000100#32 0x11223344#32 0x3344#32 0x11220000#32 amdPart)
        (operands 0#32 0x1C000100#32 0x11223344#32 amdPart), 0x3344#32, 0x11220000#32, false, _,
      ready_at rfl rfl rfl rfl, ⟨rfl, rfl⟩, rfl, rfl, .inl rfl, rfl, serves_serving rfl rfl (by decide)⟩,
    ⟨serving 5 (programRun false 0x1C000000#32 0xAABBCCDD#32 0x80#32 0x800000#32 bscPart)
        (operands 0#32 0x1C000000#32 0xAABBCCDD#32 bscPart), 0x80#32, 0x800000#32, _,
      ready_at rfl rfl rfl rfl, ⟨rfl, rfl⟩, rfl, .inl rfl, rfl, serves_serving rfl rfl (by decide)⟩,
    ⟨serving 5 (programRun false 0x1C000100#32 0xDEADBEEF#32 0#32 0#32 spiPart)
        (operands 0#32 0x1C000100#32 0xDEADBEEF#32 spiPart), 0#32, 0#32, _,
      ready_at rfl rfl rfl rfl, ⟨rfl, rfl⟩, rfl, ⟨rfl, by decide⟩, rfl, serves_serving rfl rfl (by decide)⟩⟩

theorem witness_ReadModeAndBypass : (∃ (s : State) (items : List (Access × Word)), ready 5 s ∧ amdStyle s.toEngine ∧ s.flash.bypassActive = true
      ∧ items = exitItems s.toEngine ++ resetItems s.toEngine ∧ serves 5 items s)
    ∧ (∃ (s : State) (items : List (Access × Word)), ready 5 s ∧ amdStyle s.toEngine ∧ s.flash.bypassActive = false
      ∧ items = enterItems s.toEngine ∧ serves 5 items s)
    ∧ (∃ (s : State) (items : List (Access × Word)), ready 5 s ∧ amdStyle s.toEngine ∧ s.flash.bypassActive = true
      ∧ items = exitItems s.toEngine ∧ serves 5 items s)
    ∧ (∃ (s : State) (items : List (Access × Word)), ready 5 s ∧ bscStyle s.toEngine ∧ items = resetItems s.toEngine ∧ serves 5 items s)
    ∧ ∃ (s : State), ready 5 s ∧ spiStyle s.toEngine :=
  ⟨⟨serving 5 (exitItems (inBypass amdPart).toEngine ++ resetItems amdPart.toEngine) (inBypass amdPart), _,
      ready_at rfl rfl rfl rfl, .inl rfl, rfl, rfl, serves_serving rfl rfl (by decide)⟩,
    ⟨serving 5 (enterItems amdPart.toEngine) amdPart, _,
      ready_at rfl rfl rfl rfl, .inl rfl, rfl, rfl, serves_serving rfl rfl (by decide)⟩,
    ⟨serving 5 (exitItems (inBypass amdPart).toEngine) (inBypass amdPart), _,
      ready_at rfl rfl rfl rfl, .inl rfl, rfl, rfl, serves_serving rfl rfl (by decide)⟩,
    ⟨serving 5 (resetItems bscPart.toEngine) bscPart, _,
      ready_at rfl rfl rfl rfl, .inl rfl, rfl, serves_serving rfl rfl (by decide)⟩,
    ⟨spiPart, ready_at rfl rfl rfl rfl, ⟨rfl, by decide⟩⟩⟩

/-- The accesses of SPI_CHIP_ERASE on the Broadcom controller. -/
def chipEraseRun : List (Access × Word) :=
  [(.write .word 0xB8000040#32 0x80000006#32, 0#32), (.read .word 0xB8000040#32, 0x7FFFFFFF#32),
    (.write .word 0xB8000040#32 0x800000C7#32, 0#32), (.read .word 0xB8000040#32, 0x7FFFFFFF#32),
    (.write .word 0xB8000040#32 0x80000105#32, 0#32), (.read .word 0xB8000040#32, 0x7FFFFFFF#32),
    (.read .word 0xB8000048#32, 0xFFFFFFFE#32)]

theorem witness_SpiChipErase : ∃ (s : State) (l : SpiLayout) (free : Word) (status : Word) (items : List (Access × Word)), ready 5 s ∧ spiStyle s.toEngine
    ∧ l = sessionLayout s.toEngine ∧ free.getLsbD l.busyBit = false ∧ status.getLsbD s.cfg.wipBit = false
    ∧ items = [(.write .word l.ctrlReg (l.start ||| l.code.wren), 0#32), (.read .word l.ctrlReg, free),
        (.write .word l.ctrlReg (l.start ||| l.code.be), 0#32), (.read .word l.ctrlReg, free),
        (.write .word l.ctrlReg (l.start ||| l.code.rdsr), 0#32), (.read .word l.ctrlReg, free),
        (.read .word l.dataReg, status)]
    ∧ serves 5 items s :=
  ⟨serving 5 chipEraseRun spiPart, Config.broadcom, 0x7FFFFFFF#32, 0xFFFFFFFE#32, chipEraseRun,
    ready_at rfl rfl rfl rfl, ⟨rfl, by decide⟩, rfl, rfl, rfl, rfl, serves_serving rfl rfl (by decide)⟩

theorem witness_SpiRows : (∃ (s : State) (l : SpiLayout) (free : Word) (addr : Access × Word) (items : List (Access × Word)), ready 5 s ∧ l = sessionLayout s.toEngine
      ∧ free.getLsbD l.busyBit = false
      ∧ addr = ((.write .word l.addrReg ((s.regs.a - s.flash.base) &&& 0x00FFFFFF#32), 0#32) : Access × Word)
      ∧ s.session.spiLayout ≠ none
      ∧ items = addr :: (.write .word l.dataReg s.regs.b, 0#32) :: startItems l l.code.pp free
      ∧ serves 5 items s)
    ∧ (∃ (s : State) (l : SpiLayout) (free : Word) (v : Word) (items : List (Access × Word)), ready 5 s ∧ l = sessionLayout s.toEngine ∧ free.getLsbD l.busyBit = false
      ∧ s.session.spiLayout ≠ none
      ∧ items = startItems l l.code.rdid free ++ [(Access.read .word l.dataReg, v)] ∧ serves 5 items s)
    ∧ ∃ (s : State) (items : List (Access × Word)), ready 5 s
      ∧ items = [(Access.write .word s.cfg.broadcom.ctrlReg (s.cfg.broadcom.start ||| s.cfg.broadcom.code.be), 0#32)]
      ∧ serves 5 items s :=
  ⟨⟨serving 5 ((.write .word 0xB8000044#32 0x100#32, 0#32) :: (.write .word 0xB8000048#32 7#32, 0#32)
          :: startItems Config.broadcom Config.broadcom.code.pp 0#32) (operands 0#32 0x1C000100#32 7#32 spiPart),
      Config.broadcom, 0#32, _, _, ready_at rfl rfl rfl rfl, rfl, rfl, rfl, by decide, rfl,
      serves_serving rfl rfl (by decide)⟩,
    ⟨serving 5 (startItems Config.broadcom Config.broadcom.code.rdid 0#32 ++ [(.read .word 0xB8000048#32, 0x00162020#32)])
        spiPart,
      Config.broadcom, 0#32, 0x00162020#32, _, ready_at rfl rfl rfl rfl, rfl, rfl, by decide, rfl,
      serves_serving rfl rfl (by decide)⟩,
    ⟨serving 5 [(.write .word 0xB8000040#32 0x800000C7#32, 0#32)] dmaReady, _, ready_at rfl rfl rfl rfl, rfl,
      serves_serving rfl rfl (by decide)⟩⟩

/-- Accesses served by a target about to serve them, in a state with P_POLL_TIMEOUT = 2. -/
def polled (items : List (Access × Word)) (s0 : State) : State :=
  serving 5 items (bounded 1 s0)

/-- The hypotheses of both parts of `pollSite` are met, from the state `s0`. -/
def pollMet (s0 : State) (before : List (Access × Word)) (turn : Word → List (Access × Word)) (isReady : Word → Bool)
    (rest : List (Access × Word)) : Prop :=
  (∃ (s : State) (busy : List Word) (items : List (Access × Word)), s = polled items s0 ∧ ready 5 s
      ∧ (∀ v ∈ busy, isReady v = false) ∧ pollBound s.cfg = some busy.length
      ∧ items = before ++ busy.flatMap turn ∧ serves 5 items s)
    ∧ ∃ (s : State) (busy : List Word) (v : Word) (items : List (Access × Word)), s = polled items s0 ∧ ready 5 s
      ∧ (∀ v ∈ busy, isReady v = false) ∧ busy.length = 1 ∧ patient s.cfg busy.length ∧ isReady v = true
      ∧ items = before ++ busy.flatMap turn ++ turn v ++ rest ∧ serves 5 items s

theorem pollMet_of {s0 : State} {before rest : List (Access × Word)} {turn : Word → List (Access × Word)}
    {isReady : Word → Bool} (busy done : Word) (hr : ready 5 s0) (hd : s0.session.useDma = true)
    (hk : skipsDstrtPoll s0.cfg s0.session = false) (hb : isReady busy = false) (hv : isReady done = true)
    (hn : (before ++ [busy, busy].flatMap turn).length * 9 * 42 ≤ clocksAllowed s0)
    (hm : (before ++ [busy].flatMap turn ++ turn done ++ rest).length * 9 * 42 ≤ clocksAllowed s0) :
    pollMet s0 before turn isReady rest :=
  ⟨⟨_, [busy, busy], _, rfl, hr, (fun v h => by simp only [List.mem_cons, List.not_mem_nil, or_self, or_false] at h; exact h ▸ hb), rfl, rfl, serves_serving hd hk hn⟩,
    ⟨_, [busy], done, _, rfl, hr, (fun v h => by simp only [List.mem_cons, List.not_mem_nil, or_false] at h; exact h ▸ hb), rfl,
      patient_bounded (Nat.le_refl 1), hv, rfl, serves_serving hd hk hm⟩⟩

/-- A program of 0x11223344 at 0x1C000100, or an erase there. -/
def atBlock (s : State) : State := operands 0#32 0x1C000100#32 0x11223344#32 s

theorem witness_FlashPolls_amd : ∃ (s0 : State) (setup : List (Access × Word)), amdStyle s0.toEngine
    ∧ programsInBypass s0.toEngine = false ∧ setup = unlockItems s0.toEngine (partTable s0.toEngine).program
    ∧ pollMet s0
      (exitItems s0.toEngine ++ unlockItems s0.toEngine (partTable s0.toEngine).eraseSetup
        ++ [offsetItem s0.toEngine (partTable s0.toEngine).unlock1Offset (partTable s0.toEngine).unlock1,
          offsetItem s0.toEngine (partTable s0.toEngine).unlock2Offset (partTable s0.toEngine).unlock2,
          cycle s0.regs.a (partTable s0.toEngine).sectorErase])
      (fun v => [(.read .half s0.regs.a, v)]) (fun v => (lane s0.cfg.endian s0.regs.a v).getLsbD s0.cfg.nor.amdReady)
      (resetItems s0.toEngine)
    ∧ (lane s0.cfg.endian (s0.regs.a + 2#32) 0x11220000#32 = 0x1122#16
      ∧ pollMet s0 ([] ++ setup ++ [cycle s0.regs.a 0x3344#16]) (fun v => [(.read .half s0.regs.a, v)])
        (fun v => decide (lane s0.cfg.endian s0.regs.a v = 0x3344#16))
        (halfItemsAmd s0.toEngine false (s0.regs.a + 2#32) 0x1122#16 0x11220000#32 ++ resetItems s0.toEngine))
    ∧ (lane s0.cfg.endian s0.regs.a 0x3344#32 = 0x3344#16
      ∧ pollMet s0 ([] ++ halfItemsAmd s0.toEngine false s0.regs.a 0x3344#16 0x3344#32 ++ setup
          ++ [cycle (s0.regs.a + 2#32) 0x1122#16])
        (fun v => [(.read .half (s0.regs.a + 2#32), v)])
        (fun v => decide (lane s0.cfg.endian (s0.regs.a + 2#32) v = 0x1122#16)) (resetItems s0.toEngine))
    ∧ programOrder s0.toEngine s0.regs.b = (0x3344#16, 0x1122#16) :=
  ⟨atBlock amdPart, _, .inl rfl, rfl, rfl,
    pollMet_of 0#32 0x80#32 (ready_at rfl rfl rfl rfl) rfl rfl rfl rfl (by decide) (by decide),
    ⟨rfl, pollMet_of 0#32 0x3344#32 (ready_at rfl rfl rfl rfl) rfl rfl rfl rfl (by decide) (by decide)⟩,
    ⟨rfl, pollMet_of 0#32 0x11220000#32 (ready_at rfl rfl rfl rfl) rfl rfl rfl rfl (by decide) (by decide)⟩, rfl⟩

theorem witness_FlashPolls_bsc : ∃ (s0 : State) (first second : List (Access × Word)) (done : Word → Word → Bool),
    bscStyle s0.toEngine
    ∧ first = [cycle s0.regs.a s0.cfg.bsc.clearStatus, cycle s0.regs.a s0.cfg.bsc.unlockSetup,
      cycle s0.regs.a s0.cfg.bsc.confirm, cycle s0.regs.a s0.cfg.bsc.readStatus]
    ∧ second = [cycle s0.regs.a s0.cfg.bsc.clearStatus, cycle s0.regs.a s0.cfg.bsc.eraseSetup,
      cycle s0.regs.a s0.cfg.bsc.confirm, cycle s0.regs.a s0.cfg.bsc.readStatus]
    ∧ (∀ x v, done x v = (lane s0.cfg.endian x v).getLsbD s0.cfg.nor.bscReady)
    ∧ done s0.regs.a 0x00800080#32 = true ∧ done (s0.regs.a + 2#32) 0x00800080#32 = true
    ∧ pollMet s0 first (fun v => [(.read .half s0.regs.a, v)]) (done s0.regs.a)
      (second ++ [(.read .half s0.regs.a, 0x00800080#32)] ++ resetItems s0.toEngine)
    ∧ pollMet s0 (first ++ [(.read .half s0.regs.a, 0x00800080#32)] ++ second)
      (fun v => [(.read .half s0.regs.a, v)]) (done s0.regs.a) (resetItems s0.toEngine)
    ∧ pollMet s0 (halfItemsBsc s0.toEngine s0.regs.a 0x3344#16 0x00800080#32
          ++ [cycle (s0.regs.a + 2#32) s0.cfg.bsc.clearStatus, cycle (s0.regs.a + 2#32) s0.cfg.bsc.programSetup,
            cycle (s0.regs.a + 2#32) 0x1122#16])
      (fun v => [(.read .half (s0.regs.a + 2#32), v)]) (done (s0.regs.a + 2#32)) (resetItems s0.toEngine)
    ∧ pollMet s0 [cycle s0.regs.a s0.cfg.bsc.clearStatus, cycle s0.regs.a s0.cfg.bsc.programSetup,
        cycle s0.regs.a 0x3344#16]
      (fun v => [(.read .half s0.regs.a, v)]) (done s0.regs.a)
      (halfItemsBsc s0.toEngine (s0.regs.a + 2#32) 0x1122#16 0x00800080#32 ++ resetItems s0.toEngine) :=
  ⟨atBlock bscPart, _, _, _, .inl rfl, rfl, rfl, fun _ _ => rfl, by decide, by decide,
    pollMet_of 0#32 0x00800080#32 (ready_at rfl rfl rfl rfl) rfl rfl rfl rfl (by decide) (by decide),
    pollMet_of 0#32 0x00800080#32 (ready_at rfl rfl rfl rfl) rfl rfl rfl rfl (by decide) (by decide),
    pollMet_of 0#32 0x00800080#32 (ready_at rfl rfl rfl rfl) rfl rfl rfl rfl (by decide) (by decide),
    pollMet_of 0#32 0x00800080#32 (ready_at rfl rfl rfl rfl) rfl rfl rfl rfl (by decide) (by decide)⟩

theorem witness_FlashPolls_spi : ∃ (s0 : State) (l : SpiLayout), spiStyle s0.toEngine ∧ l = sessionLayout s0.toEngine
    ∧ (0#32).getLsbD l.busyBit = false ∧ (0#32).getLsbD s0.cfg.wipBit = false
    ∧ pollMet s0 [(.write .word l.ctrlReg (l.start ||| l.code.wren), 0#32)] (fun v => [(.read .word l.ctrlReg, v)])
      (fun v => !v.getLsbD l.busyBit) (startItems l l.code.be 0#32 ++ wipItems l 0#32 0#32)
    ∧ ∀ puts ∈ [([] : List (Access × Word)), [(.write .word l.addrReg 0x100#32, 0#32)],
        [(.write .word l.addrReg 0x100#32, 0#32), (.write .word l.dataReg s0.regs.b, 0#32)]],
      pollMet s0 (startItems l l.code.wren 0#32 ++ puts ++ startItems l l.code.pp 0#32) (wipItems l 0#32)
        (fun v => !v.getLsbD s0.cfg.wipBit) [] := by
  refine ⟨atBlock spiPart, _, ⟨rfl, by decide⟩, rfl, rfl, rfl,
    pollMet_of 0x80000000#32 0#32 (ready_at rfl rfl rfl rfl) rfl rfl rfl rfl (by decide) (by decide), ?_⟩
  intro puts h
  simp only [List.mem_cons, List.not_mem_nil, or_false] at h
  obtain rfl | rfl | rfl := h
  all_goals exact pollMet_of 1#32 0#32 (ready_at rfl rfl rfl rfl) rfl rfl rfl rfl (by decide) (by decide)

theorem witness_AreaChecks : (∃ (s : State), ready 5 s ∧ s.area.valid = false)
    ∧ (∃ (s : State), ready 5 s ∧ s.area.valid = true ∧ s.flash.cmdType = some .spi ∧ s.session.spiLayout = none)
    ∧ (∃ (s : State), ready 5 s ∧ s.area.valid = true ∧ s.flash.size = 0#32 ∧ s.flash.cmdType ≠ some .spi)
    ∧ (∃ (s : State), ready 5 s ∧ s.area.valid = true ∧ s.area.length = 0#32 ∧ s.session.spiLayout ≠ none)
    ∧ (∃ (s : State), ready 5 s ∧ s.area.valid = true ∧ s.flash.size ≠ 0#32 ∧ s.area.length = 1#32
      ∧ s.streams.ok = false ∧ modulesPresent s.toEngine ∧ s.flash.cmdType ≠ some .spi ∧ s.session.useDma = true)
    ∧ ∃ (s : State), ready 5 s ∧ s.area.valid = true ∧ s.flash.size ≠ 0#32 ∧ s.area.length = 1#32
      ∧ s.streams.ok = false ∧ modulesPresent s.toEngine ∧ s.flash.cmdType ≠ some .spi ∧ s.session.useDma = false :=
  ⟨⟨amdPart, ready_at rfl rfl rfl rfl, rfl⟩,
    ⟨withArea 0#32 0#32 (withPart 0 .spi 0x400000#32 dmaReady), ready_at rfl rfl rfl rfl, rfl, rfl, rfl⟩,
    ⟨withArea 0#32 8#32 dmaReady, ready_at rfl rfl rfl rfl, rfl, rfl, by decide⟩,
    ⟨withArea 0#32 0#32 spiPart, ready_at rfl rfl rfl rfl, rfl, rfl, by decide⟩,
    ⟨withArea 0#32 1#32 amdPart, ready_at rfl rfl rfl rfl, rfl, by decide, rfl, rfl, .inl rfl, by decide, rfl⟩,
    ⟨withArea 0#32 1#32 { amdPart with session := { amdPart.session with useDma := false } },
      ready_at rfl rfl rfl rfl, rfl, by decide, rfl, rfl, .inr (fun m => by cases m <;> decide), by decide, rfl⟩⟩

/-- A stream opened with some bytes. -/
def withStream (bytes : List Byte) (s : State) : State :=
  { s with streams := { ok := true, input := bytes, output := [] } }

theorem witness_AreaBackup : ∃ (s : State) (words : List Word) (items : List (Access × Word)), ready 5 s ∧ s.area.valid = true ∧ s.flash.size ≠ 0#32
    ∧ s.area.length = 6#32 ∧ s.streams.ok = true ∧ words.length = (s.area.length.toNat + 3) / 4
    ∧ items = words.mapIdx (fun n w => (.read .word (s.area.start + BitVec.ofNat 32 (4 * n)), w))
    ∧ serves 5 items s :=
  ⟨serving 5 [(.read .word 0x1FC00000#32, 0x11223344#32), (.read .word 0x1FC00004#32, 0x55667788#32)]
      (withStream [] (withArea 0x1FC00000#32 6#32 amdPart)),
    [0x11223344#32, 0x55667788#32], _, ready_at rfl rfl rfl rfl, rfl, by decide, rfl, rfl, rfl, rfl,
    serves_serving rfl rfl (by decide)⟩

/-- What the status reads of two blocks get: each block shows ready with words of its own. -/
def blockReplies : List (Word × Word × Word) := [(0x80#32, 0#32, 0#32), (0xFFFF#32, 5#32, 1#32)]

theorem witness_AreaErase : (∃ (s : State) (blocks : List Word) (replies : List (Word × Word × Word))
      (items : List (Access × Word)), ready 5 s ∧ s.area.valid = true ∧ s.flash.size ≠ 0#32
      ∧ s.area.length ≠ 0#32 ∧ amdStyle s.toEngine ∧ s.flash.bypassActive = true
      ∧ blocks = s.flash.blockTable.filter
        (fun a => decide (s.area.start.toNat ≤ a.toNat ∧ a.toNat < s.area.start.toNat + s.area.length.toNat))
      ∧ blocks ≠ [] ∧ replies.length = blocks.length
      ∧ (∀ x ∈ blocks.zip replies, eraseReady s.toEngine x.1 x.2.1 x.2.2.1 x.2.2.2)
      ∧ items = (if amdStyle s.toEngine ∧ blocks ≠ [] then exitItems s.toEngine else [])
        ++ (blocks.zip replies).flatMap (fun x => eraseItems s.toEngine x.1 x.2.1 x.2.2.1 x.2.2.2)
      ∧ serves 5 items s)
    ∧ ∃ (s : State) (blocks : List Word) (replies : List (Word × Word × Word)) (items : List (Access × Word)),
      ready 5 s ∧ s.area.valid = true ∧ s.flash.size ≠ 0#32 ∧ s.area.length ≠ 0#32 ∧ bscStyle s.toEngine
      ∧ blocks = s.flash.blockTable.filter
        (fun a => decide (s.area.start.toNat ≤ a.toNat ∧ a.toNat < s.area.start.toNat + s.area.length.toNat))
      ∧ blocks = [] ∧ replies.length = blocks.length
      ∧ (∀ x ∈ blocks.zip replies, eraseReady s.toEngine x.1 x.2.1 x.2.2.1 x.2.2.2)
      ∧ items = (if amdStyle s.toEngine ∧ blocks ≠ [] then exitItems s.toEngine else [])
        ++ (blocks.zip replies).flatMap (fun x => eraseItems s.toEngine x.1 x.2.1 x.2.2.1 x.2.2.2)
      ∧ serves 5 items s :=
  ⟨⟨serving 5 (exitItems (inBypass amdPart).toEngine
          ++ ([0x1C002000#32, 0x1C004000#32].zip blockReplies).flatMap
            (fun x => eraseItems amdPart.toEngine x.1 x.2.1 x.2.2.1 x.2.2.2))
        (withArea 0x1C000001#32 0x4000#32 (inBypass amdPart)),
      [0x1C002000#32, 0x1C004000#32], blockReplies, _, ready_at rfl rfl rfl rfl, rfl, by decide, by decide, .inl rfl, rfl,
      by decide +kernel, by decide, rfl, (by
        intro x h
        simp only [blockReplies, List.zip_cons_cons, List.zip_nil_left, List.mem_cons, List.not_mem_nil, or_false] at h
        rcases h with rfl | rfl <;> rfl), rfl, serves_serving rfl rfl (by decide)⟩,
    ⟨serving 5 [] (withArea 0x1C000001#32 0x1000#32 bscPart),
      [], [], _, ready_at rfl rfl rfl rfl, rfl, by decide, by decide, .inl rfl,
      by decide +kernel, rfl, rfl, (fun _ h => nomatch h), rfl, serves_serving rfl rfl (by decide)⟩⟩

/-- The accesses of AREA_PROGRAM of two words of padding on an AMD-style part with opt_bypass. -/
def areaRun (s : State) : List (Access × Word) :=
  enterItems s.toEngine
    ++ (programItems s.toEngine true 0x1C002000#32 0xDEADBEEF#32 0xBEEF#32 0xDEAD0000#32 0#32
      ++ (programItems s.toEngine true 0x1C002004#32 0x01FFFFFF#32 0xFFFF#32 0x01FF0000#32 0#32 ++ []))
    ++ [cycle 0x1C000000#32 0x90#16, cycle 0x1C000000#32 0x00#16] ++ [cycle 0x1C000000#32 0xF0#16]

theorem witness_AreaProgram : ∃ (s : State) (free : Word) (words : List Word) (replies : List (Word × Word)) (bypass : Bool) (n : Nat) (items : List (Access × Word)), ready 5 s ∧ s.area.valid = true
    ∧ s.flash.size ≠ 0#32 ∧ s.area.length ≠ 0#32 ∧ s.streams.ok = true ∧ amdStyle s.toEngine
    ∧ n = (s.area.length.toNat + 3) / 4 ∧ words = takenWords s.options.swapEndian n s.streams.input
    ∧ replies.length = n ∧ bypass = programsInBypass s.toEngine
    ∧ (∀ k w r, words[k]? = some w → replies[k]? = some r →
        programReady s.toEngine (s.area.start + BitVec.ofNat 32 (4 * k)) w r.1 r.2 free)
    ∧ items = (if amdStyle s.toEngine ∧ s.options.bypass = true then enterItems s.toEngine else [])
      ++ ((words.zip replies).mapIdx fun k x =>
          programItems s.toEngine bypass (s.area.start + BitVec.ofNat 32 (4 * k)) x.1 x.2.1 x.2.2 free).flatten
      ++ (if amdStyle s.toEngine ∧ bypass = true
          then [cycle s.flash.base (partTable s.toEngine).bypassExit1,
            cycle s.flash.base (partTable s.toEngine).bypassExit2] else [])
      ++ resetItems s.toEngine
    ∧ serves 5 items s :=
  ⟨serving 5 (areaRun (optBypass amdPart))
      (withStream [0xDE#8, 0xAD#8, 0xBE#8, 0xEF#8, 0x01#8] (withArea 0x1C002000#32 8#32 (optBypass amdPart))),
    0#32, [0xDEADBEEF#32, 0x01FFFFFF#32], [(0xBEEF#32, 0xDEAD0000#32), (0xFFFF#32, 0x01FF0000#32)], true, 2, _,
    ready_at rfl rfl rfl rfl, rfl, by decide, by decide, rfl, .inl rfl, rfl, by decide, rfl, rfl,
    (by
      intro k w r hw hr
      match k, hw, hr with
      | 0, hw, hr => cases hw; cases hr; exact ⟨rfl, rfl⟩
      | 1, hw, hr => cases hw; cases hr; exact ⟨rfl, rfl⟩
      | k + 2, hw, hr => simp at hw),
    rfl, serves_serving rfl rfl (by decide)⟩

/-- CONTROL's reset sequence. -/
def rebootRun : List Exchange :=
  [.select 0x0A#32, .swap (ctlReset params.ctl) anyReply, .swap 0#32 anyReply]

/-- opt_reboot set. -/
def optReboot (s : State) : State := { s with options := { s.options with reboot := true } }

theorem witness_SessionEnd : (∃ (s : State), s.running = none ∧ clocksAllowed s = 6 ∧ s.cable.shadow ≠ some .runTestIdle)
    ∧ (∃ (s : State), s.running = none ∧ clocksAllowed s = 6 ∧ s.tap.irLength = none)
    ∧ (∃ (s : State) (items : List (Access × Word)) (reboot : List Exchange) (e : Engine), s.running = none ∧ s.cable.shadow = some .runTestIdle ∧ s.tap.irLength = some 5
      ∧ s.session.useDma = true
      ∧ items = (if amdStyle s.toEngine then exitItems s.toEngine else [])
        ++ (if s.flash.cmdType = some .spi ∧ s.session.spiLayout = none then [] else resetItems s.toEngine)
      ∧ reboot = (if s.options.reboot = true
        then [.select s.cfg.ir.control, .swap (ctlReset s.cfg.ctl) anyReply, .swap 0#32 anyReply] else [])
      ∧ answered 5 s.cable 0 s.tap.irCache (busScript s.toEngine items ++ reboot) = true
      ∧ (scriptClocks 5 s.tap.irCache (busScript s.toEngine items ++ reboot)).length + 6 ≤ clocksAllowed s
      ∧ e = afterScript 5 reboot (afterBus 5 items s.toEngine))
    ∧ ∃ (s : State) (reboot : List Exchange), s.running = none ∧ s.cable.shadow = some .runTestIdle
      ∧ s.tap.irLength = some 5 ∧ s.session.useDma = false ∧ s.flash.cmdType = none ∧ s.options.reboot = true
      ∧ reboot = [.select s.cfg.ir.control, .swap (ctlReset s.cfg.ctl) anyReply, .swap 0#32 anyReply]
      ∧ answered 5 s.cable 0 s.tap.irCache (busScript s.toEngine [] ++ reboot) = true
      ∧ (scriptClocks 5 s.tap.irCache (busScript s.toEngine [] ++ reboot)).length + 6 ≤ clocksAllowed s :=
  ⟨⟨limited 5 (faultTaken afterReset), rfl, rfl, by decide⟩,
    ⟨limited 5 { idleTap 5 with tap := { irCache := none, irLength := none } }, rfl, rfl, rfl⟩,
    ⟨answering 5 (busScript bscPart.toEngine (resetItems bscPart.toEngine) ++ rebootRun)
        (busWords (resetItems bscPart.toEngine)) (optReboot bscPart),
      _, _, _, rfl, rfl, rfl, rfl, rfl, rfl,
      (follows_answering (length := 5) (s := optReboot bscPart) (by decide) (by decide)).1,
      Nat.le_trans (Nat.add_le_add_right (scriptClocks_length_le 5 _ _) 6) (by decide), rfl⟩,
    ⟨answering 5 rebootRun [] (optReboot (idleTap 5)), rebootRun, rfl, rfl, rfl, rfl, rfl, rfl, rfl,
      (follows_answering (length := 5) (s := optReboot (idleTap 5)) (by decide) (by decide)).1,
      Nat.le_trans (Nat.add_le_add_right (scriptClocks_length_le 5 _ _) 6) (by decide)⟩⟩

end Sys2Proof.Machine.Tests
end

section
/-!
What every operation keeps. An operation that begins at rest (tap_shadow UNKNOWN or RUN_TEST_IDLE, the invariant met)
ends at rest with the same fault record, or takes a fault at rest, or pauses on its way with the invariant met
(`Lands`). `Leads` is the rule of that form for any pre- and postcondition, `Sound` its most used case, from rest to
rest; each operation of the model has one lemma of it.
-/

namespace Sys2Proof.Machine

/-! ## The fields the invariant speaks of -/

/-- The fields `EngineInv` reads. -/
def vital (e : Engine) :=
  (e.tap.irLength, e.status.faulted, e.status.faultCode, e.status.dmaErr, e.status.dmaFails, e.session,
    (e.flash.base, e.flash.windowOverride, e.flash.cmdType, e.flash.index, e.flash.size, e.flash.blockTable), e.cfg)

theorem EngineInv.of_vital {e e' : Engine} (he : EngineInv e) (h : vital e' = vital e) : EngineInv e' := by
  obtain ⟨_, ⟨⟩, _, ⟨⟩, _, ⟨⟩, _⟩ := e
  obtain ⟨_, ⟨⟩, _, ⟨⟩, _, ⟨⟩, _⟩ := e'
  simp only [vital, Prod.mk.injEq] at h
  obtain ⟨rfl, rfl, rfl, rfl, rfl, rfl, ⟨rfl, rfl, rfl, rfl, rfl, rfl⟩, rfl⟩ := h
  exact ⟨he.irLength, he.fault, he.dmaFail, he.access, he.processor, he.flash, he.window⟩

/-! ## Updates that change those fields -/

theorem EngineInv.setTap {e : Engine} (he : EngineInv e) {f : TapSession → TapSession}
    (hf : ∀ n, (f e.tap).irLength = some n → legalIrLength n = true) : EngineInv (setTap f e) :=
  ⟨⟨he.irLength.1, hf⟩, he.fault, he.dmaFail, he.access, he.processor, he.flash, he.window⟩

theorem EngineInv.setStatus {e : Engine} (he : EngineInv e) {f : Status → Status}
    (hf : (f e.status).faulted = true ↔ (f e.status).faultCode ≠ .none)
    (hd : (f e.status).dmaErr = true ↔ (f e.status).dmaFails ≠ 0#8) : EngineInv (setStatus f e) :=
  ⟨he.irLength, hf, hd, he.access, he.processor, he.flash, he.window⟩

theorem EngineInv.setSession {e : Engine} (he : EngineInv e) {f : Session → Session}
    (ha : accessChosen (setSession f e)) (hp : processorKnown (setSession f e)) : EngineInv (setSession f e) :=
  ⟨he.irLength, he.fault, he.dmaFail, ha, hp, he.flash, he.window⟩

/-- DMA_FAILS saturates, so it is never 0 after an exhausted transaction (41_memory_access.md R115). -/
theorem exhaustedStatus_dmaFails_ne_zero (st : Status) : (exhaustedStatus st).dmaFails ≠ 0#8 := by
  simp only [exhaustedStatus]
  split
  · decide
  · bv_omega

theorem EngineInv.exhausted {e : Engine} (he : EngineInv e) : EngineInv (Machine.setStatus exhaustedStatus e) :=
  he.setStatus he.fault (iff_of_true rfl (exhaustedStatus_dmaFails_ne_zero e.status))

theorem faultRecorded_faultedStatus {code : FaultCode} (hc : code ≠ .none) {st : Status}
    (h : st.faulted = true ↔ st.faultCode ≠ .none) :
    (faultedStatus code st).faulted = true ↔ (faultedStatus code st).faultCode ≠ .none := by
  unfold faultedStatus
  split
  · exact h
  · exact iff_of_true rfl hc

theorem EngineInv.faulted {e : Engine} (he : EngineInv e) {code : FaultCode} (hc : code ≠ .none) (info : Word) :
    EngineInv (faultedEngine code info e) := by
  refine (he.setStatus (faultRecorded_faultedStatus hc he.fault) ?_).of_vital rfl
  unfold faultedStatus
  split <;> exact he.dmaFail

/-- The window rules hold once the base and then the block table are computed anew (43_flash_probe.md R155, R156). -/
theorem windowPlaced_rebuild (e : Engine) : windowPlaced (rebuildBlockTable (rebase e)) := by
  simp only [windowPlaced, rebuildBlockTable, rebase, setFlash_flash, setFlash_cfg, windowBase]
  refine ⟨fun b hb => by simp [hb], fun ho hi => by simp [ho, hi], trivial⟩

/-- Without a descriptor the block table is empty at every base, so moving the base is enough. -/
theorem rebuild_rebase_of_index_none {e : Engine} (hi : e.flash.index = none) (ht : e.flash.blockTable = []) :
    rebuildBlockTable (rebase e) = rebase e := by
  obtain ⟨_, _, _, _, _, ⟨⟩, _⟩ := e
  simp only at hi ht
  subst hi ht
  rfl

theorem EngineInv.selectFlash {e : Engine} (he : EngineInv e) {k : Nat} {d : FlashDescriptor}
    (hd : e.cfg.flashTable[k]? = some d) : EngineInv (selectFlash k d e) :=
  ⟨he.irLength, he.fault, he.dmaFail, he.access, he.processor, ⟨d, hd, rfl, rfl⟩, windowPlaced_rebuild _⟩

theorem EngineInv.clearFlash {e : Engine} (he : EngineInv e) : EngineInv (clearFlash e) := by
  rw [Machine.clearFlash, ← rebuild_rebase_of_index_none rfl rfl]
  exact ⟨he.irLength, he.fault, he.dmaFail, he.access, he.processor, ⟨rfl, rfl⟩, windowPlaced_rebuild _⟩

theorem EngineInv.recordProbe {e : Engine} (he : EngineInv e) (found : Option Nat) :
    EngineInv (recordProbe found e) := by
  unfold Machine.recordProbe
  split
  · exact he.of_vital rfl
  · split
    next d hd => exact (he.selectFlash hd).of_vital rfl
    next => exact he

/-- The invariant of the reset engine rests on P_IR_LENGTH_UNKNOWN alone. -/
theorem EngineInv.reset {p : Params} (hp : legalIrLength p.irLengthUnknown = true) : EngineInv (Engine.reset p) where
  irLength := ⟨hp, fun _ h => nomatch h⟩
  fault := by simp [faultRecorded, Engine.reset]
  dmaFail := by simp [dmaFailRecorded, Engine.reset]
  access := by simp [accessChosen, Engine.reset, useDmaOf, ejtagVersionOf]
  processor := ⟨(fun _ h => nomatch h), rfl⟩
  flash := ⟨rfl, rfl⟩
  window := ⟨(fun _ h => nomatch h), fun _ _ => rfl, rfl⟩

/-! ## The rule -/

/-- On the way of a command that began at `start`: the invariant holds; parameters and fault record are those of
`start`. -/
structure Underway (start e : Engine) : Prop where
  inv : EngineInv e
  cfg : e.cfg = start.cfg
  faulted : e.status.faulted = start.status.faulted
  faultCode : e.status.faultCode = start.status.faultCode

/-- On its way, and the TAP rests. -/
structure AtRest (start e : Engine) : Prop extends Underway start e where
  resting : restingTap e

/-- How an operation of a command that began at `start` may end: with a value that meets `Q`, with a fault taken at
rest, or paused on its way. -/
def Lands {α : Type} (start : Engine) (Q : α → Engine → Prop) : EStateM.Result Stop Run α → Prop
  | .ok x r => Q x r.eng
  | .error .faulted r => EngineInv r.eng ∧ restingTap r.eng ∧ r.eng.cfg = start.cfg
  | .error .paused r => Underway start r.eng

/-- From every engine that meets `P` the operation lands with `Q`. -/
def Leads {α : Type} (start : Engine) (P : Engine → Prop) (op : Op α) (Q : α → Engine → Prop) : Prop :=
  ∀ r, P r.eng → Lands start Q (op r)

/-- From rest to rest. -/
def Sound {α : Type} (start : Engine) (op : Op α) : Prop :=
  Leads start (AtRest start) op fun _ => AtRest start

variable {α β : Type} {start : Engine} {P : Engine → Prop}

theorem Leads.bind {op : Op α} {f : α → Op β} {Q : α → Engine → Prop} {R : β → Engine → Prop}
    (h : Leads start P op Q) (k : ∀ x, Leads start (Q x) (f x) R) : Leads start P (op >>= f) R := by
  intro r hr
  have first := h r hr
  rw [bind_run]
  cases hop : op r with
  | ok x r' => rw [hop] at first; exact k x r' first
  | error stop r' => rw [hop] at first; cases stop <;> exact first

theorem Leads.pure {x : α} {Q : α → Engine → Prop} (h : ∀ e, P e → Q x e) :
    Leads start P (Pure.pure x : Op α) Q :=
  fun r hr => h r.eng hr

theorem Leads.modify {f : Engine → Engine} {Q : Unit → Engine → Prop} (h : ∀ e, P e → Q () (f e)) :
    Leads start P (modifyEngine f) Q :=
  fun r hr => h r.eng hr

theorem Sound.bind {op : Op α} {f : α → Op β} (h : Sound start op) (k : ∀ x, Sound start (f x)) :
    Sound start (op >>= f) :=
  Leads.bind h k

/-- One operation after the other, the first one's value dropped. -/
theorem Sound.seq {op : Op α} {next : Op β} (h : Sound start op) (k : Sound start next) :
    Sound start (op >>= fun _ => next) :=
  h.bind fun _ => k

theorem Sound.pure (x : α) : Sound start (Pure.pure x : Op α) :=
  Leads.pure fun _ h => h

theorem Sound.ite {c : Prop} [Decidable c] {a b : Op α} (ha : Sound start a) (hb : Sound start b) :
    Sound start (if c then a else b) := by
  split
  · exact ha
  · exact hb

/-- What is done with the engine read may use that it is the current one. -/
theorem Leads.readExactly {f : Engine → Op β} {Q : β → Engine → Prop}
    (k : ∀ e, P e → Leads start (· = e) (f e) Q) : Leads start P (getEngine >>= f) Q :=
  fun r hr => k r.eng hr r rfl

/-- What is done with the engine read may use that it was at rest. -/
theorem Sound.readResting {f : Engine → Op β} (k : ∀ e, AtRest start e → Sound start (f e)) :
    Sound start (getEngine >>= f) :=
  Leads.readExactly fun e he r hr => k e he r (hr ▸ he)

theorem Sound.read {f : Engine → Op β} (k : ∀ e, Sound start (f e)) : Sound start (getEngine >>= f) :=
  .readResting fun e _ => k e

/-- `e'` has the parameters, the cable and the fault record of `e`. -/
def SameRecord (e' e : Engine) : Prop :=
  e'.cfg = e.cfg ∧ e'.cable = e.cable ∧ e'.status.faulted = e.status.faulted
    ∧ e'.status.faultCode = e.status.faultCode

theorem sameRecord_of_vital {e e' : Engine} (hv : vital e' = vital e) (hcable : e'.cable = e.cable) :
    SameRecord e' e := by
  simp only [vital, Prod.mk.injEq] at hv
  obtain ⟨-, hfaulted, hcode, -, -, -, -, hcfg⟩ := hv
  exact ⟨hcfg, hcable, hfaulted, hcode⟩

theorem AtRest.of_sameRecord {e e' : Engine} (h : AtRest start e) (hinv : EngineInv e') (hs : SameRecord e' e) :
    AtRest start e' := by
  obtain ⟨hcfg, hcable, hfaulted, hcode⟩ := hs
  exact ⟨⟨hinv, hcfg.trans h.cfg, hfaulted.trans h.faulted, hcode.trans h.faultCode⟩,
    by rw [restingTap, hcable]; exact h.resting⟩

/-- An update that keeps the invariant, and not every field it reads. -/
theorem Sound.modifyInv {f : Engine → Engine} (hinv : ∀ e, AtRest start e → EngineInv (f e))
    (hs : ∀ e, SameRecord (f e) e) : Sound start (modifyEngine f) :=
  Leads.modify fun e he => he.of_sameRecord (hinv e he) (hs e)

/-- An update of fields the invariant does not read. -/
theorem Sound.modify {f : Engine → Engine} (h : ∀ e, vital (f e) = vital e ∧ (f e).cable = e.cable) :
    Sound start (modifyEngine f) :=
  .modifyInv (fun e he => he.inv.of_vital (h e).1) fun e => sameRecord_of_vital (h e).1 (h e).2

theorem raiseFault_sound {code : FaultCode} (hc : code ≠ .none) (info : Word) :
    Sound start (raiseFault code info : Op α) := by
  intro r hr
  exact ⟨hr.inv.faulted hc info, hr.resting, hr.cfg⟩

theorem raiseWithCommand_sound {code : FaultCode} (hc : code ≠ .none) :
    Sound start (raiseWithCommand code : Op α) :=
  fun r hr => raiseFault_sound hc r.eng.regs.cmd r hr

theorem pauseHere_sound : Sound start (pauseHere : Op α) :=
  fun _ hr => hr.toUnderway

theorem writeResult_sound (v : Word) : Sound start (writeResult v) :=
  .modify fun _ => ⟨rfl, rfl⟩

/-! ## The cable -/

/-- Clocks move tap_shadow only. -/
theorem Underway.setCable {e : Engine} (h : Underway start e) (f : Cable → Cable) :
    Underway start (setCable f e) :=
  ⟨h.inv.of_vital (e' := Machine.setCable f e) rfl, h.cfg, h.faulted, h.faultCode⟩

theorem driveClocks_leads (ks : List CableClock) {Q : List Bool → Engine → Prop} (hP : ∀ e, P e → Underway start e)
    (hQ : ∀ e tdo, P e → Q tdo (setCable (driven ks) e)) : Leads start P (driveClocks ks) Q := by
  intro r hr
  rcases Nat.lt_or_ge r.budget ks.length with hb | hb
  · rw [driveClocks_pauses ks r.eng r.budget hb]
    exact (hP r.eng hr).setCable _
  · rw [driveClocks_ends ks r.eng r.budget hb]
    exact hQ r.eng _ hr

/-- While tap_shadow is UNKNOWN no clock changes that (10_state.md R22). -/
theorem driven_shadow_unknown (ks : List CableClock) {c : Cable} (h : c.shadow = none) :
    (driven ks c).shadow = none := by
  induction ks generalizing c with
  | nil => exact h
  | cons k ks ih => exact ih (by rw [clockPins_shadow, h]; rfl)

/-- A run of clocks that leads from Run-Test-Idle back to it. -/
theorem driveClocks_sound {ks : List CableClock}
    (h : ∀ c : Cable, c.shadow = some .runTestIdle → (driven ks c).shadow = some .runTestIdle) :
    Sound start (driveClocks ks) :=
  driveClocks_leads ks (fun _ he => he.toUnderway) fun e _ he =>
    ⟨he.toUnderway.setCable _, he.resting.imp (driven_shadow_unknown ks) (h e.cable)⟩

theorem rwData_sound (v : Word) : Sound start (rwData v) :=
  (driveClocks_sound (driven_drSequence_shadow v)).bind fun _ => .pure _

theorem setIR_sound (instr : Word) : Sound start (setIR instr) := by
  refine .readResting fun e he => ?_
  split
  next => exact raiseFault_sound (by decide) instr
  next length hl =>
    have legal : 1 ≤ length := by
      have := he.inv.irLength.2 length hl
      simp only [legalIrLength, decide_eq_true_eq] at this
      exact this.1
    exact .ite (.pure ()) ((driveClocks_sound (driven_irSequence_shadow length instr · legal)).seq
      (.modify fun _ => ⟨rfl, rfl⟩))

/-- TestReset ends in Run-Test-Idle from wherever the TAP was (40_tap.md R94). -/
theorem testReset_sound : Sound start testReset := by
  have reset : Leads start (AtRest start) (driveClocks resetSequence) fun _ => Underway start :=
    driveClocks_leads _ (fun _ he => he.toUnderway) fun _ _ he => he.toUnderway.setCable _
  have known : Leads start (Underway start)
      (modifyEngine (Machine.setCable fun c => { c with shadow := some .testLogicReset }))
      fun _ e => Underway start e ∧ e.cable.shadow = some .testLogicReset :=
    .modify fun _ he => ⟨he.setCable _, rfl⟩
  have exit : Leads start (fun e => Underway start e ∧ e.cable.shadow = some .testLogicReset)
      (driveClocks resetExit) fun _ => AtRest start := by
    refine driveClocks_leads _ (fun _ he => he.1) fun e _ he => ⟨he.1.setCable _, .inr ?_⟩
    rw [setCable_cable, driven_shadow, he.2]
    rfl
  exact reset.bind fun _ => known.bind fun _ => exit.bind fun _ => Sound.modify fun _ => ⟨rfl, rfl⟩

theorem selectControl_sound : Sound start selectControl :=
  .read fun _ => setIR_sound _

theorem selectAddress_sound : Sound start selectAddress :=
  .read fun _ => setIR_sound _

theorem selectData_sound : Sound start selectData :=
  .read fun _ => setIR_sound _

theorem resetProcessor_sound : Sound start resetProcessor :=
  selectControl_sound.seq <| .read fun _ => (rwData_sound _).seq <| (rwData_sound _).seq <| .pure ()

/-! ## Polls and preconditions -/

theorem checkTimeout_sound (iterations : Nat) (site : Word) : Sound start (checkTimeout iterations site) := by
  refine .read fun e => ?_
  split
  next => exact .ite (raiseFault_sound (by decide) site) (.pure ())
  next => exact .pure ()

theorem pollUntil_sound {site : Word} {body : Op α} {ready : α → Bool} (h : Sound start body) :
    Sound start (pollUntil site body ready) := by
  have loop : ∀ turns i, Sound start (pollLoop site body ready turns i) := by
    intro turns
    induction turns with
    | zero => exact fun _ => pauseHere_sound
    | succ turns ih =>
      exact fun i => h.bind fun _ => .ite (.pure _) ((checkTimeout_sound (i + 1) site).seq (ih (i + 1)))
  exact fun r hr => loop (r.budget + 1) 0 r hr

theorem requireIdleTap_sound : Sound start requireIdleTap :=
  .read fun _ => .ite (.pure ()) (raiseWithCommand_sound (by decide))

theorem requireIrLength_sound : Sound start requireIrLength :=
  .read fun _ => .ite (raiseWithCommand_sound (by decide)) (.pure ())

theorem checkClass_sound (c : CommandClass) : Sound start (checkClass c) := by
  cases c with
  | noClocks => exact .pure ()
  | selfSynchronising => exact .pure ()
  | drOnly => exact requireIdleTap_sound
  | irUsing => exact requireIdleTap_sound.seq requireIrLength_sound

theorem requireFlash_sound : Sound start requireFlash :=
  .read fun _ => .ite (raiseWithCommand_sound (by decide)) (.pure ())

theorem requireBypassPart_sound : Sound start requireBypassPart :=
  .read fun _ => .ite (.pure ()) (raiseWithCommand_sound (by decide))

theorem requireSpiPart_sound : Sound start requireSpiPart :=
  .read fun _ => .ite (.pure ()) (raiseWithCommand_sound (by decide))

theorem requireSpiLayout_sound : Sound start requireSpiLayout :=
  .read fun _ => .ite (raiseWithCommand_sound (by decide)) (.pure ())

end Sys2Proof.Machine
end

section
/-!
Every operation of the model is `Sound`: the memory accesses and the executor, the flash cycles and sequences, the TAP
and the session, the probe, the areas, and the single words of the other ports.
-/

namespace Sys2Proof.Machine

variable {α : Type} {start : Engine}

/-! ## Memory accesses (Machine/MemoryAccess.lean) -/

theorem waitDma_sound (addr : Word) : Sound start (waitDma addr) :=
  .read fun _ => .ite (.pure ()) ((pollUntil_sound (rwData_sound _)).seq (.pure ()))

theorem endDma_sound : Sound start endDma :=
  selectControl_sound.seq <| .read fun _ => (rwData_sound _).bind fun _ => .pure _

theorem dmaReadAttempt_sound (addr : Word) (width : Width) : Sound start (dmaReadAttempt addr width) :=
  selectAddress_sound.seq <| (rwData_sound addr).seq <| selectControl_sound.seq <| .read fun _ =>
    (rwData_sound _).seq <| (waitDma_sound addr).seq <| selectData_sound.seq <| (rwData_sound _).bind fun _ =>
      endDma_sound.bind fun _ => .pure _

theorem dmaWriteAttempt_sound (addr : Word) (width : Width) (v : Word) :
    Sound start (dmaWriteAttempt addr width v) :=
  selectAddress_sound.seq <| (rwData_sound addr).seq <| selectData_sound.seq <| (rwData_sound _).seq <|
    selectControl_sound.seq <| .read fun _ => (rwData_sound _).seq <| (waitDma_sound addr).seq <|
      endDma_sound.bind fun _ => .pure _

theorem recordExhausted_sound : Sound start (modifyEngine (setStatus exhaustedStatus)) :=
  .modifyInv (fun _ he => he.inv.exhausted) fun _ => ⟨rfl, rfl, rfl, rfl⟩

theorem dmaAttempts_sound {attempt : Op (Word × Bool)} (h : Sound start attempt) (n : Nat) :
    Sound start (dmaAttempts attempt n) := by
  induction n with
  | zero => exact .pure _
  | succ n ih =>
    exact h.bind fun x => .ite (.ite (recordExhausted_sound.seq (.pure x.1)) ih) (.pure x.1)

theorem recordAccess_sound (a : Access) : Sound start (modifyEngine (recordAccess a)) :=
  .modify fun _ => ⟨rfl, rfl⟩

theorem dmaRead_sound (addr : Word) (width : Width) : Sound start (dmaRead addr width) :=
  (recordAccess_sound _).seq <| (dmaAttempts_sound (dmaReadAttempt_sound addr width) _).bind fun _ => .read fun _ => by
    cases width <;> exact .pure _

theorem dmaWrite_sound (addr : Word) (width : Width) (v : Word) : Sound start (dmaWrite addr width v) :=
  (recordAccess_sound _).seq <| (dmaAttempts_sound (dmaWriteAttempt_sound addr width v) _).seq <| .pure ()

theorem setVregs_sound (f : VirtualRegs → VirtualRegs) : Sound start (modifyEngine (setVregs f)) :=
  .modify fun _ => ⟨rfl, rfl⟩

theorem completeAccess_sound : Sound start completeAccess :=
  selectControl_sound.seq <| .read fun _ => (rwData_sound _).seq <| .pure ()

theorem supply_sound (d : Word) : Sound start (supply d) :=
  selectData_sound.seq <| (rwData_sound d).seq <| (setVregs_sound _).seq completeAccess_sound

theorem serveWrite_sound (a : Word) : Sound start (serveWrite a) :=
  selectData_sound.seq <| (rwData_sound _).bind fun _ => (setVregs_sound _).seq <| completeAccess_sound.seq <|
    .modify fun _ => ⟨rfl, rfl⟩

theorem readValue_sound (words : List Word) (a : Word) : Sound start (readValue words a) := by
  refine .read fun e => .ite ?_ (.ite (.pure _) (.ite (.pure _) (.pure _)))
  split
  next => exact .pure _
  next => exact raiseFault_sound (by decide) a

theorem serveRead_sound (words : List Word) (term : Termination) (a : Word) :
    Sound start (serveRead words term a) :=
  (readValue_sound words a).bind fun x => (supply_sound x.1).seq <| .pure _

theorem serveAccess_sound (words : List Word) (term : Termination) (c a : Word) :
    Sound start (serveAccess words term c a) :=
  .read fun _ => .ite ((serveWrite_sound a).seq (.pure false)) <|
    .ite ((setVregs_sound _).seq (.ite (.pure true) (serveRead_sound words term a))) (serveRead_sound words term a)

theorem waitPending_sound : Sound start waitPending :=
  .read fun _ => pollUntil_sound (rwData_sound _)

theorem serviceAccesses_sound (words : List Word) (term : Termination) :
    Sound start (serviceAccesses words term) := by
  have loop : ∀ turns serviced, Sound start (serviceLoop words term turns serviced) := by
    intro turns
    induction turns with
    | zero => exact fun _ => pauseHere_sound
    | succ turns ih =>
      exact fun serviced => selectControl_sound.seq <| waitPending_sound.bind fun c => selectAddress_sound.seq <|
        (rwData_sound _).bind fun a => (serveAccess_sound words term c a).bind fun _ =>
          .ite (.pure ()) ((checkTimeout_sound (serviced + 1) a).seq (ih (serviced + 1)))
  exact fun r hr => loop (r.budget + 1) 0 r hr

theorem runModule_sound (m : ModuleId) (term : Termination) : Sound start (runModule m term) :=
  .read fun _ => .ite (raiseFault_sound (by decide) _) ((setVregs_sound _).seq (serviceAccesses_sound _ term))

theorem requireModules_sound (ms : List ModuleId) : Sound start (requireModules ms) := by
  induction ms with
  | nil => exact .pure ()
  | cons m rest ih => exact .read fun _ => .ite (raiseFault_sound (by decide) _) ih

theorem requireAccesses_sound (uses : List ModuleId) : Sound start (requireAccesses uses) :=
  .read fun _ => .ite (.pure ()) (requireModules_sound uses)

theorem presentAddress_sound (addr : Word) : Sound start (presentAddress addr) :=
  .modify fun _ => ⟨rfl, rfl⟩

theorem presentData_sound (v : Word) : Sound start (presentData v) :=
  setVregs_sound _

theorem praccRead_sound (addr : Word) (width : Width) : Sound start (praccRead addr width) :=
  (requireModules_sound _).seq <| (recordAccess_sound _).seq <| (presentAddress_sound addr).seq <|
    (runModule_sound _ _).seq <| .read fun _ => by
      cases width <;> exact .pure _

theorem praccWrite_sound (addr : Word) (width : Width) (v : Word) : Sound start (praccWrite addr width v) :=
  (requireModules_sound _).seq <| (recordAccess_sound _).seq <| (presentAddress_sound addr).seq <|
    (presentData_sound _).seq <| runModule_sound _ _

theorem memRead_sound (addr : Word) (width : Width) : Sound start (memRead addr width) :=
  .read fun _ => .ite (dmaRead_sound addr width) (praccRead_sound addr width)

theorem memWrite_sound (addr : Word) (width : Width) (v : Word) : Sound start (memWrite addr width v) :=
  .read fun _ => .ite (dmaWrite_sound addr width v) (praccWrite_sound addr width v)

theorem norWrite_sound (a : Word) (d : Half) : Sound start (norWrite a d) :=
  memWrite_sound a .half _

theorem norRead_sound (a : Word) : Sound start (norRead a) :=
  (memRead_sound a .half).bind fun _ => .pure _

/-! ## Flash cycles (Machine/FlashCycles.lean) -/

theorem requireChangeAccesses_sound : Sound start requireChangeAccesses :=
  .read fun _ => requireAccesses_sound _

theorem requireResetAccesses_sound : Sound start requireResetAccesses :=
  .read fun _ => requireAccesses_sound _

theorem requireBypassAccesses_sound (entering : Bool) : Sound start (requireBypassAccesses entering) :=
  .read fun _ => .ite (.pure ()) (requireAccesses_sound _)

theorem requireProbeAccesses_sound : Sound start requireProbeAccesses :=
  .read fun _ => requireAccesses_sound _

theorem partCommands_sound : Sound start partCommands :=
  .read fun _ => .pure _

theorem offsetCycle_sound (offset : Word) (d : Half) : Sound start (offsetCycle offset d) :=
  .read fun _ => norWrite_sound _ d

theorem baseCycle_sound (d : Half) : Sound start (baseCycle d) :=
  .read fun _ => norWrite_sound _ d

theorem amdUnlock_sound (t : AmdCommands) : Sound start (amdUnlock t) :=
  (offsetCycle_sound t.unlock1Offset t.unlock1).seq (offsetCycle_sound t.unlock2Offset t.unlock2)

/-- A BSC/SCS cycle, whose datum is a parameter. -/
theorem bscCycle_sound (a : Word) (d : Params → Half) : Sound start (getEngine >>= fun e => norWrite a (d e.cfg)) :=
  .read fun _ => norWrite_sound a _

theorem bscReadArray_sound : Sound start bscReadArray :=
  .read fun _ => baseCycle_sound _

theorem bscReadId_sound : Sound start bscReadId :=
  .read fun _ => baseCycle_sound _

theorem spiPut_sound (reg : Word) (v : Option Word) : Sound start (spiPut reg v) := by
  cases v with
  | some v => exact memWrite_sound reg .word v
  | none => exact .pure ()

theorem spiStart_sound (l : SpiLayout) (op : SpiOp) : Sound start (spiStart l op) :=
  memWrite_sound _ .word _

theorem spiWaitBusy_sound (l : SpiLayout) : Sound start (spiWaitBusy l) :=
  (pollUntil_sound (memRead_sound _ .word)).seq (.pure ())

theorem spiTransaction_sound (l : SpiLayout) (op : SpiOp) (addr data : Option Word) :
    Sound start (spiTransaction l op addr data) :=
  (spiPut_sound _ addr).seq <| (spiPut_sound _ data).seq <| (spiStart_sound l op).seq (spiWaitBusy_sound l)

theorem spiQuery_sound (l : SpiLayout) (op : SpiOp) : Sound start (spiQuery l op) :=
  (spiTransaction_sound l op none none).seq (memRead_sound _ .word)

theorem spiWaitWip_sound (l : SpiLayout) : Sound start (spiWaitWip l) :=
  .read fun _ => (pollUntil_sound (spiQuery_sound l .rdsr)).seq (.pure ())

theorem withSpiLayout_sound {f : SpiLayout → Op α} (h : ∀ l, Sound start (f l)) : Sound start (withSpiLayout f) := by
  refine .read fun e => ?_
  split
  next => exact h _
  next => exact raiseWithCommand_sound (by decide)

/-! ## Flash sequences (Machine/Flash.lean) -/

theorem setBypass_sound (b : Bool) : Sound start (setBypass b) :=
  .modify fun _ => ⟨rfl, rfl⟩

theorem bypassEnter_sound : Sound start bypassEnter :=
  .read fun _ => .ite (.pure ()) <| partCommands_sound.bind fun t => (amdUnlock_sound t).seq <|
    (offsetCycle_sound _ t.bypassEnter).seq (setBypass_sound true)

theorem bypassExit_sound : Sound start bypassExit :=
  .read fun _ => .ite (partCommands_sound.bind fun t => (baseCycle_sound t.bypassExit1).seq <|
    (baseCycle_sound t.bypassExit2).seq (setBypass_sound false)) (.pure ())

theorem resetReadAmd_sound : Sound start resetReadAmd :=
  bypassExit_sound.seq <| partCommands_sound.bind fun t => baseCycle_sound t.reset

theorem flashResetRead_sound : Sound start flashResetRead := by
  refine .read fun e => ?_
  cases e.flash.cmdType with
  | none => exact .pure ()
  | some kind =>
    cases kind with
    | amd | sst => exact resetReadAmd_sound
    | bsc | scs => exact bscReadArray_sound
    | spi => exact .pure ()

theorem waitAmdErase_sound (a : Word) : Sound start (waitAmdErase a) :=
  .read fun _ => (pollUntil_sound (norRead_sound a)).seq (.pure ())

theorem waitBscReady_sound (a : Word) : Sound start (waitBscReady a) :=
  .read fun _ => (pollUntil_sound (norRead_sound a)).seq (.pure ())

theorem eraseAmd_sound (t : AmdCommands) (a : Word) : Sound start (eraseAmd t a) :=
  (amdUnlock_sound t).seq <| (offsetCycle_sound _ t.eraseSetup).seq <| (amdUnlock_sound t).seq <|
    (norWrite_sound a t.sectorErase).seq (waitAmdErase_sound a)

theorem eraseBsc_sound (a : Word) : Sound start (eraseBsc a) :=
  (bscCycle_sound a (·.bsc.clearStatus)).seq <| (bscCycle_sound a (·.bsc.unlockSetup)).seq <|
    (bscCycle_sound a (·.bsc.confirm)).seq <| (bscCycle_sound a (·.bsc.readStatus)).seq <|
    (waitBscReady_sound a).seq <| (bscCycle_sound a (·.bsc.clearStatus)).seq <|
    (bscCycle_sound a (·.bsc.eraseSetup)).seq <| (bscCycle_sound a (·.bsc.confirm)).seq <|
    (bscCycle_sound a (·.bsc.readStatus)).seq (waitBscReady_sound a)

theorem eraseSpi_sound (a : Word) : Sound start (eraseSpi a) :=
  .read fun _ => withSpiLayout_sound fun l => (spiTransaction_sound l .wren none none).seq <|
    (spiTransaction_sound l .se _ none).seq (spiWaitWip_sound l)

theorem eraseByKind_sound (a : Word) : Sound start (eraseByKind a) := by
  refine .read fun e => ?_
  cases e.flash.cmdType with
  | none => exact .pure ()
  | some kind =>
    cases kind with
    | amd | sst => exact bypassExit_sound.seq (eraseAmd_sound _ a)
    | bsc | scs => exact eraseBsc_sound a
    | spi => exact eraseSpi_sound a

theorem eraseBlock_sound (a : Word) : Sound start (eraseBlock a) :=
  (eraseByKind_sound a).seq flashResetRead_sound

theorem programHalfAmd_sound (a : Word) (h : Half) : Sound start (programHalfAmd a h) := by
  have write : Sound start (do
      norWrite a h
      let _ ← pollUntil a (norRead a) fun x => decide (x = h)
      pure ()) :=
    (norWrite_sound a h).seq <| (pollUntil_sound (norRead_sound a)).seq (.pure ())
  exact .read fun _ => partCommands_sound.bind fun t => .ite ((baseCycle_sound t.bypassProgram).seq write) <|
    (amdUnlock_sound t).seq <| (offsetCycle_sound _ t.program).seq write

theorem programHalfBsc_sound (a : Word) (h : Half) : Sound start (programHalfBsc a h) :=
  (bscCycle_sound a (·.bsc.clearStatus)).seq <| (bscCycle_sound a (·.bsc.programSetup)).seq <|
    (norWrite_sound a h).seq (waitBscReady_sound a)

theorem programSpi_sound (a w : Word) : Sound start (programSpi a w) :=
  .read fun _ => withSpiLayout_sound fun l => (spiTransaction_sound l .wren none none).seq <|
    (spiTransaction_sound l .pp _ _).seq (spiWaitWip_sound l)

theorem programWordAmd_sound (a : Word) (h : Half × Half) : Sound start (programWordAmd a h) := by
  have halves : Sound start (do
      programHalfAmd a h.1
      programHalfAmd (a + 2#32) h.2
      let f ← getEngine
      if f.flash.bypassActive then pure () else flashResetRead) :=
    (programHalfAmd_sound a h.1).seq <| (programHalfAmd_sound _ h.2).seq <| .read fun _ =>
      .ite (.pure ()) flashResetRead_sound
  exact .read fun _ => .ite (bypassEnter_sound.seq halves) halves

theorem programWordBsc_sound (a : Word) (h : Half × Half) : Sound start (programWordBsc a h) :=
  (programHalfBsc_sound a h.1).seq <| (programHalfBsc_sound _ h.2).seq flashResetRead_sound

theorem programWord_sound (a w : Word) : Sound start (programWord a w) := by
  refine .read fun e => ?_
  cases e.flash.cmdType with
  | none => exact programWordBsc_sound a _
  | some kind =>
    cases kind with
    | spi => exact (programSpi_sound a w).seq flashResetRead_sound
    | amd | sst => exact programWordAmd_sound a _
    | bsc | scs => exact programWordBsc_sound a _

theorem eraseSpiChip_sound : Sound start eraseSpiChip :=
  withSpiLayout_sound fun l => (spiTransaction_sound l .wren none none).seq <|
    (spiTransaction_sound l .be none none).seq (spiWaitWip_sound l)

/-! ## Probe, forced type and areas (Machine/Flash.lean, Machine/AreaOps.lean) -/

theorem readIds_sound : Sound start readIds :=
  .read fun _ => (norRead_sound _).bind fun _ => (norRead_sound _).bind fun _ => .pure _

theorem readSubId_sound : Sound start readSubId :=
  .read fun _ => (norRead_sound _).bind fun _ => (norRead_sound _).bind fun _ => .pure _

theorem disambiguate_sound (v d : Half) : Sound start (disambiguate v d) :=
  .ite (readSubId_sound.bind fun _ => .pure _) <| .ite (readSubId_sound.bind fun _ => .pure _) (.pure _)

theorem trialAmd_sound (t : AmdCommands) : Sound start (trialAmd t) :=
  (amdUnlock_sound t).seq <| (offsetCycle_sound _ t.autoselect).seq <| readIds_sound.bind fun ids =>
    (disambiguate_sound ids.1 ids.2).bind fun _ => (baseCycle_sound t.reset).seq (.pure _)

theorem trialBsc_sound : Sound start trialBsc :=
  bscReadId_sound.seq <| readIds_sound.bind fun _ => bscReadArray_sound.seq (.pure _)

theorem trialSpi_sound : Sound start trialSpi :=
  withSpiLayout_sound fun l => (spiQuery_sound l .rdid).bind fun _ => .pure _

theorem runTrial_sound (t : Trial) : Sound start (runTrial t) := by
  refine .read fun e => ?_
  cases t with
  | amd | sst => exact trialAmd_sound _
  | bscScs => exact trialBsc_sound
  | spi => exact trialSpi_sound

theorem runTrials_sound (ts : List Trial) (ids : Half × Half) : Sound start (runTrials ts ids) := by
  induction ts generalizing ids with
  | nil => exact .pure _
  | cons t rest ih =>
    refine .read fun e => .ite (ih ids) ((runTrial_sound t).bind fun found => ?_)
    split
    next => exact .pure _
    next => exact ih found

theorem clearFlash_sound : Sound start (modifyEngine clearFlash) :=
  .modifyInv (fun _ he => he.inv.clearFlash) fun _ => ⟨rfl, rfl, rfl, rfl⟩

theorem recordProbe_sameRecord (found : Option Nat) (e : Engine) : SameRecord (recordProbe found e) e := by
  unfold recordProbe
  split
  · exact ⟨rfl, rfl, rfl, rfl⟩
  · split <;> exact ⟨rfl, rfl, rfl, rfl⟩

theorem recordProbe_sound (found : Option Nat) : Sound start (modifyEngine (recordProbe found)) :=
  .modifyInv (fun _ he => he.inv.recordProbe found) (recordProbe_sameRecord found)

/-- The IDs are no part of the invariant. -/
theorem setIds_sound (vendor device : Half) :
    Sound start (modifyEngine (setFlash fun f => { f with vendorId := vendor, deviceId := device })) :=
  .modify fun _ => ⟨rfl, rfl⟩

theorem probeFlash_sound : Sound start probeFlash :=
  requireProbeAccesses_sound.seq <| clearFlash_sound.seq <| (runTrials_sound _ _).bind fun x =>
    (setIds_sound x.1.1 x.1.2).seq <| (recordProbe_sound x.2).seq (writeResult_sound _)

theorem selectFlash_sound {k : Nat} {d : FlashDescriptor} (hd : start.cfg.flashTable[k]? = some d) :
    Sound start (modifyEngine (selectFlash k d)) :=
  .modifyInv (fun _ he => he.inv.selectFlash (he.cfg ▸ hd)) fun _ => ⟨rfl, rfl, rfl, rfl⟩

theorem forceFlash_sound : Sound start forceFlash := by
  refine .readResting fun e he => ?_
  split
  next => exact raiseFault_sound (by decide) _
  next d hd =>
    exact (selectFlash_sound (he.cfg ▸ hd)).seq <| (setIds_sound d.vendor d.device).seq <|
      .seq (.modify fun _ => ⟨rfl, rfl⟩) (writeResult_sound _)

theorem setArea_sound (f : Area → Area) : Sound start (modifyEngine (setArea f)) :=
  .modify fun _ => ⟨rfl, rfl⟩

theorem selectArea_sound : Sound start selectArea := by
  refine .read fun e => ?_
  split
  next => exact raiseFault_sound (by decide) _
  next => exact (setArea_sound _).seq (writeResult_sound _)

theorem emitWord_sound (w : Word) : Sound start (emitWord w) :=
  .modify fun _ => ⟨rfl, rfl⟩

theorem takeStreamWord_sound : Sound start takeStreamWord :=
  .read fun _ => .seq (.modify fun _ => ⟨rfl, rfl⟩) (.pure _)

theorem requireArea_sound : Sound start requireArea :=
  .read fun _ => .ite (.pure ()) (raiseFault_sound (by decide) _)

theorem requireStream_sound : Sound start requireStream :=
  .read fun _ => .ite (.pure ()) (raiseWithCommand_sound (by decide))

theorem setSkipped_sound (b : Bool) : Sound start (setSkipped b) :=
  .modify fun _ => ⟨rfl, rfl⟩

theorem guardSize_sound {checks body : Op Unit} (hc : Sound start checks) (hb : Sound start body) :
    Sound start (guardSize checks body) :=
  .read fun _ => .ite (hc.seq <| (setSkipped_sound false).seq hb) ((setSkipped_sound true).seq (writeResult_sound _))

theorem backupWords_sound (left n : Nat) : Sound start (backupWords left n) := by
  induction left generalizing n with
  | zero => exact .pure ()
  | succ left ih => exact .read fun _ => (memRead_sound _ .word).bind fun w => (emitWord_sound w).seq (ih (n + 1))

theorem backupArea_sound : Sound start backupArea :=
  .read fun _ => (backupWords_sound _ 0).seq (writeResult_sound _)

theorem eraseBlocks_sound (blocks : List Word) : Sound start (eraseBlocks blocks) := by
  induction blocks with
  | nil => exact .pure ()
  | cons a rest ih => exact (eraseBlock_sound a).seq ih

theorem eraseArea_sound : Sound start eraseArea :=
  .read fun _ => (eraseBlocks_sound _).seq (writeResult_sound _)

theorem requireEraseAccesses_sound : Sound start requireEraseAccesses :=
  .read fun _ => .ite (.pure ()) requireChangeAccesses_sound

theorem programWords_sound (left n : Nat) : Sound start (programWords left n) := by
  induction left generalizing n with
  | zero => exact .pure ()
  | succ left ih =>
    exact takeStreamWord_sound.bind fun taken => .read fun _ => (programWord_sound _ taken.1).seq (ih (n + 1))

theorem leaveBypass_sound : Sound start leaveBypass :=
  .read fun _ => .ite bypassExit_sound (setBypass_sound false)

theorem programArea_sound : Sound start programArea :=
  .read fun _ => (programWords_sound _ 0).seq <| leaveBypass_sound.seq <| flashResetRead_sound.seq <|
    writeResult_sound _

theorem endSession_sound : Sound start endSession := by
  have close : Sound start (do setBypass false; testReset) := (setBypass_sound false).seq testReset_sound
  have reboot (e : Engine) : Sound start (do
      if teardownReady e && e.options.reboot then resetProcessor else pure ()
      setBypass false
      testReset) :=
    .ite (resetProcessor_sound.seq close) close
  exact .read fun e => .ite (requireResetAccesses_sound.seq <| flashResetRead_sound.seq (reboot e)) (reboot e)

/-! ## The TAP and the session (Machine/Tap.lean) -/

/-- An update of the TAP session that sets a legal IR length. -/
theorem setTap_sound {f : TapSession → TapSession} {length : Nat} (legal : legalIrLength length = true)
    (hf : ∀ t, (f t).irLength = some length) : Sound start (modifyEngine (setTap f)) :=
  .modifyInv (fun e he => he.inv.setTap fun _ hn => Option.some.inj ((hf e.tap).symm.trans hn) ▸ legal)
    fun _ => ⟨rfl, rfl, rfl, rfl⟩

theorem setIrLength_sound : Sound start setIrLength := by
  refine .read fun e => ?_
  split
  next legal => exact setTap_sound legal fun _ => rfl
  next => exact raiseFault_sound (by decide) _

theorem readId_sound {length : Nat} (legal : legalIrLength length = true) : Sound start (readId length) :=
  .seq (setTap_sound legal fun _ => rfl) <| testReset_sound.seq <| .read fun _ =>
    (setIR_sound _).seq (rwData_sound _)

theorem tableIrLength_legal (l : TableIrLength) : legalIrLength (tableIrLength l) = true := by
  cases l <;> rfl

/-- An index that DETECT found names a descriptor with the IDCODE read. -/
def Identifies (p : Params) (id : Word) (index : Option Nat) : Prop :=
  ∀ k, index = some k → ∃ d, p.procTable[k]? = some d ∧ d.idcode = id

theorem identifies_none (p : Params) (id : Word) : Identifies p id none :=
  fun _ h => nomatch h

theorem identifies_procLookup (p : Params) (id : Word) : Identifies p id (procLookup p id) := by
  intro k hk
  obtain ⟨hlt, hd, -⟩ := List.findIdx?_eq_some_iff_getElem.mp hk
  exact ⟨p.procTable[k], List.getElem?_eq_getElem hlt, of_decide_eq_true hd⟩

/-- The scan from index `k` on, over what is left of the table there. -/
theorem scanTable_leads (rest : List ProcDescriptor) (k : Nat) (hk : start.cfg.procTable.drop k = rest) :
    Leads start (AtRest start) (scanTable rest k) fun x e => AtRest start e ∧ Identifies start.cfg x.1 x.2 := by
  induction rest generalizing k with
  | nil =>
    intro r hr
    have last : Sound start (readId r.eng.cfg.irLengthUnknown) := readId_sound hr.inv.irLength.1
    exact Leads.bind last (fun id => .pure fun _ he => ⟨he, identifies_none start.cfg id⟩) r hr
  | cons d rest ih =>
    have head : start.cfg.procTable[k]? = some d := by
      rw [← List.head?_drop, hk]
      rfl
    refine Leads.bind (readId_sound (tableIrLength_legal d.irLength)) fun id => ?_
    split
    next hid => exact .pure fun _ he => ⟨he, fun j hj => ⟨d, Option.some.inj hj ▸ head, hid.symm⟩⟩
    next => exact ih (k + 1) (by rw [← List.tail_drop, hk]; rfl)

theorem recordId_sound {id : Word} {index : Option Nat} (h : Identifies start.cfg id index) :
    Sound start (recordId id index) := by
  have session : Sound start (modifyEngine fun e => setSession (fun s =>
      { s with idcode := id, idcodeValid := true, procIndex := index, spiLayout := spiLayoutFor e.cfg id }) e) := by
    refine .modifyInv (fun e he => he.inv.setSession he.inv.access ?_) fun _ => ⟨rfl, rfl, rfl, rfl⟩
    exact ⟨show Identifies e.cfg id index from he.cfg ▸ h, rfl⟩
  exact session.seq <| .seq (.modify fun _ => ⟨rfl, rfl⟩) (writeResult_sound id)

theorem forgetProcessor_sound : Sound start (modifyEngine (setSession fun s => { s with procIndex := none })) :=
  .modifyInv (fun _ he => he.inv.setSession he.inv.access ⟨(fun _ h => nomatch h), he.inv.processor.2⟩)
    fun _ => ⟨rfl, rfl, rfl, rfl⟩

theorem detectProcessor_sound : Sound start detectProcessor := by
  refine .readResting fun e he => ?_
  split
  next => exact raiseFault_sound (by decide) _
  next small =>
    split
    next nonzero =>
      have legal : legalIrLength e.regs.a.toNat = true := by
        have : e.regs.a.toNat ≠ 0 := fun h => nonzero (BitVec.eq_of_toNat_eq h)
        simp only [legalIrLength, decide_eq_true_eq]
        omega
      exact (readId_sound legal).bind fun id => recordId_sound (he.cfg ▸ identifies_procLookup e.cfg id)
    next =>
      refine forgetProcessor_sound.seq (Leads.bind (scanTable_leads _ 0 (by rw [he.cfg]; rfl)) fun found => ?_)
      exact fun r hr => recordId_sound hr.2 r hr.1

theorem queryFeatures_sound : Sound start queryFeatures :=
  .read fun _ => (setIR_sound _).seq <| (rwData_sound _).bind fun v => .seq
    (.modifyInv (fun _ he => he.inv.setSession ⟨rfl, rfl⟩ he.inv.processor) fun _ => ⟨rfl, rfl, rfl, rfl⟩)
    (writeResult_sound v)

theorem setAccessMode_sound : Sound start setAccessMode := by
  refine .read fun e => ?_
  split
  next => exact raiseFault_sound (by decide) _
  next =>
    exact .modifyInv (fun _ he => he.inv.setSession ⟨rfl, he.inv.access.2⟩ he.inv.processor)
      fun _ => ⟨rfl, rfl, rfl, rfl⟩

/-- The engine whose window is set and the base moved, the block table not yet rebuilt (40_tap.md R107). -/
def moveWindow (window : Option Word) (e : Engine) : Engine :=
  rebase (setFlash (fun f => { f with windowOverride := window }) e)

theorem EngineInv.moveWindow {e : Engine} (he : EngineInv e) (window : Option Word) :
    EngineInv (rebuildBlockTable (moveWindow window e)) :=
  ⟨he.irLength, he.fault, he.dmaFail, he.access, he.processor, he.flash, windowPlaced_rebuild _⟩

theorem rebuild_moveWindow_of_index_none {e : Engine} (he : EngineInv e) (hi : e.flash.index = none)
    (window : Option Word) : rebuildBlockTable (moveWindow window e) = moveWindow window e := by
  obtain ⟨-, -, table⟩ := he.window
  exact rebuild_rebase_of_index_none hi (table.trans (by rw [hi]; rfl))

/-- Between the move of the window and the new block table the invariant does not hold, but nothing can stop there. -/
theorem setWindow_sound : Sound start setWindow := by
  refine Leads.readExactly fun e he => ?_
  split
  next => exact fun r hr => raiseFault_sound (by decide) _ r (hr ▸ he)
  next =>
    let window := if e.regs.b = 0#32 then some e.regs.a else none
    have rests : AtRest start (rebuildBlockTable (moveWindow window e)) :=
      he.of_sameRecord (he.inv.moveWindow window) ⟨rfl, rfl, rfl, rfl⟩
    have moves : Leads start (· = e) (modifyEngine (setFlash fun f => { f with windowOverride := window }))
        fun _ f => rebase f = moveWindow window e :=
      .modify fun _ hf => hf ▸ rfl
    refine moves.bind fun _ => Leads.bind (Q := fun _ f => f = moveWindow window e) (.modify fun _ hf => hf) fun _ => ?_
    split
    next hi => exact .pure fun _ hf => hf ▸ rebuild_moveWindow_of_index_none he.inv hi window ▸ rests
    next => exact .modify fun _ hf => hf ▸ rests

theorem writeOptions_sound : Sound start writeOptions := by
  refine .read fun e => ?_
  split
  next => exact raiseFault_sound (by decide) _
  next => exact .modify fun _ => ⟨rfl, rfl⟩

/-! ## Single words of other ports, and the other commands (Machine/Cycles.lean, Memory.lean, TargetControl.lean) -/

theorem selectCode_sound (code : IrCodes → Word) : Sound start (selectCode code) :=
  .read fun _ => setIR_sound _

theorem selectBypass_sound : Sound start selectBypass := by
  refine .read fun e => ?_
  split
  next => exact setIR_sound _
  next => exact raiseWithCommand_sound (by decide)

theorem exchangeControl_sound (value : ControlBits → Word) : Sound start (exchangeControl value) :=
  selectControl_sound.seq <| .read fun _ => (rwData_sound _).bind fun v => writeResult_sound v

theorem withAddress_sound {f : Engine → Op Unit} (h : ∀ e, Sound start (f e)) : Sound start (withAddress f) :=
  .read h

theorem transact_sound (op : SpiOp) (addr data : Option Word) : Sound start (transact op addr data) :=
  withSpiLayout_sound fun l => (requireAccesses_sound _).seq (spiTransaction_sound l op addr data)

theorem query_sound (op : SpiOp) : Sound start (query op) :=
  withSpiLayout_sound fun l => (requireAccesses_sound _).seq <| (spiQuery_sound l op).bind fun v => writeResult_sound v

theorem startBroadcom_sound (op : SpiOp) : Sound start (startBroadcom op) :=
  .read fun _ => spiStart_sound _ op

theorem readCommand_sound {primitive : Word → Width → Op Word} (h : ∀ a width, Sound start (primitive a width))
    (width : Width) : Sound start (readCommand primitive width) :=
  .read fun _ => (h _ width).bind fun v => writeResult_sound v

theorem writeCommand_sound {primitive : Word → Width → Word → Op Unit}
    (h : ∀ a width v, Sound start (primitive a width v)) (width : Width) :
    Sound start (writeCommand primitive width) :=
  .read fun _ => h _ width _

theorem execSelectedModule_sound : Sound start execSelectedModule := by
  refine .read fun e => ?_
  split
  next => exact raiseFault_sound (by decide) _
  next m _ => exact runModule_sound m _

theorem writeVreg_sound : Sound start writeVreg :=
  .read fun _ => .ite (raiseFault_sound (by decide) _) (.ite (setVregs_sound _) (setVregs_sound _))

theorem readVreg_sound : Sound start readVreg :=
  .read fun _ => .ite (raiseFault_sound (by decide) _) (writeResult_sound _)

theorem setInDebug_sound (b : Bool) : Sound start (setInDebug b) :=
  .modify fun _ => ⟨rfl, rfl⟩

theorem haltProcessor_sound : Sound start haltProcessor :=
  selectControl_sound.seq <| .read fun _ => (rwData_sound _).seq <| (rwData_sound _).bind fun c =>
    (setInDebug_sound _).seq (writeResult_sound c)

end Sys2Proof.Machine
end

section
/-!
The step: every instruction is a command whose operation is `Sound`, so a command in the frame of `runCommand` keeps
the invariant, and with the host's own actions every step does (O3).
-/

namespace Sys2Proof.Machine

/-! ## The instructions -/

/-- What every instruction is: a command of some class with a sound operation. -/
def RunsSound (i : Instr) : Prop :=
  ∃ (c : CommandClass) (body : Op Unit), (∀ start, Sound start body) ∧ ∀ s, exec i s = runCommand i c body s

theorem runsSound_command (i : Instr) (h : portOf 0 i = .command) : RunsSound i := by
  cases i with
  | tapReset => exact ⟨_, _, fun _ => testReset_sound, fun _ => rfl⟩
  | tapSetir => exact ⟨_, _, fun _ => .read fun _ => setIR_sound _, fun _ => rfl⟩
  | tapRwdata => exact ⟨_, _, fun _ => .read fun _ => (rwData_sound _).bind fun v => writeResult_sound v, fun _ => rfl⟩
  | tapRdata => exact ⟨_, _, fun _ => (rwData_sound _).bind fun v => writeResult_sound v, fun _ => rfl⟩
  | tapWdata => exact ⟨_, _, fun _ => .read fun _ => (rwData_sound _).seq (.pure ()), fun _ => rfl⟩
  | cfgIrlen => exact ⟨_, _, fun _ => setIrLength_sound, fun _ => rfl⟩
  | detect => exact ⟨_, _, fun _ => detectProcessor_sound, fun _ => rfl⟩
  | features => exact ⟨_, _, fun _ => queryFeatures_sound, fun _ => rfl⟩
  | cfgAccess => exact ⟨_, _, fun _ => setAccessMode_sound, fun _ => rfl⟩
  | cfgWindow => exact ⟨_, _, fun _ => setWindow_sound, fun _ => rfl⟩
  | cfgOptions => exact ⟨_, _, fun _ => writeOptions_sound, fun _ => rfl⟩
  | flashForce => exact ⟨_, _, fun _ => forceFlash_sound, fun _ => rfl⟩
  | cfgCustomArea => exact ⟨_, _, fun _ => .read fun _ => setArea_sound _, fun _ => rfl⟩
  | selectArea => exact ⟨_, _, fun _ => selectArea_sound, fun _ => rfl⟩
  | procReset => exact ⟨_, _, fun _ => resetProcessor_sound.seq (setInDebug_sound false), fun _ => rfl⟩
  | procHalt => exact ⟨_, _, fun _ => haltProcessor_sound, fun _ => rfl⟩
  | procResume => exact ⟨_, _, fun _ => (runModule_sound _ _).seq (setInDebug_sound false), fun _ => rfl⟩
  | depcRead => exact ⟨_, _, fun _ => (runModule_sound _ _).seq (.read fun _ => writeResult_sound _), fun _ => rfl⟩
  | depcWrite =>
    exact ⟨_, _, fun _ => (requireModules_sound _).seq <| .read fun _ => (presentData_sound _).seq (runModule_sound _ _),
      fun _ => rfl⟩
  | memRead32 | memRead16 => exact ⟨_, _, fun _ => readCommand_sound memRead_sound _, fun _ => rfl⟩
  | memWrite32 | memWrite16 => exact ⟨_, _, fun _ => writeCommand_sound memWrite_sound _, fun _ => rfl⟩
  | dmaRead32 | dmaRead16 => exact ⟨_, _, fun _ => readCommand_sound dmaRead_sound _, fun _ => rfl⟩
  | dmaWrite32 | dmaWrite16 => exact ⟨_, _, fun _ => writeCommand_sound dmaWrite_sound _, fun _ => rfl⟩
  | praccRead32 | praccRead16 => exact ⟨_, _, fun _ => readCommand_sound praccRead_sound _, fun _ => rfl⟩
  | praccWrite32 | praccWrite16 => exact ⟨_, _, fun _ => writeCommand_sound praccWrite_sound _, fun _ => rfl⟩
  | execModule => exact ⟨_, _, fun _ => execSelectedModule_sound, fun _ => rfl⟩
  | vregWrite => exact ⟨_, _, fun _ => writeVreg_sound, fun _ => rfl⟩
  | vregRead => exact ⟨_, _, fun _ => readVreg_sound, fun _ => rfl⟩
  | flashProbe => exact ⟨_, _, fun _ => probeFlash_sound, fun _ => rfl⟩
  | flashEraseBlock =>
    exact ⟨_, _, fun _ => requireFlash_sound.seq <| requireSpiLayout_sound.seq <| requireChangeAccesses_sound.seq <|
      .read fun _ => eraseBlock_sound _, fun _ => rfl⟩
  | flashProgramWord =>
    exact ⟨_, _, fun _ => requireFlash_sound.seq <| requireSpiLayout_sound.seq <| requireChangeAccesses_sound.seq <|
      .read fun _ => programWord_sound _ _, fun _ => rfl⟩
  | flashResetRead =>
    exact ⟨_, _, fun _ => requireFlash_sound.seq <| requireSpiLayout_sound.seq <|
      requireResetAccesses_sound.seq flashResetRead_sound, fun _ => rfl⟩
  | flashBypassEnter =>
    exact ⟨_, _, fun _ => requireFlash_sound.seq <| requireBypassPart_sound.seq <|
      (requireBypassAccesses_sound true).seq bypassEnter_sound, fun _ => rfl⟩
  | flashBypassExit =>
    exact ⟨_, _, fun _ => requireFlash_sound.seq <| requireBypassPart_sound.seq <|
      (requireBypassAccesses_sound false).seq bypassExit_sound, fun _ => rfl⟩
  | spiChipErase =>
    exact ⟨_, _, fun _ => requireFlash_sound.seq <| requireSpiPart_sound.seq <| requireSpiLayout_sound.seq <|
      requireChangeAccesses_sound.seq eraseSpiChip_sound, fun _ => rfl⟩
  | areaBackup =>
    exact ⟨_, _, fun _ => requireArea_sound.seq <|
      guardSize_sound (requireAccesses_sound _) (requireStream_sound.seq backupArea_sound), fun _ => rfl⟩
  | areaErase =>
    exact ⟨_, _, fun _ => requireArea_sound.seq <| requireSpiLayout_sound.seq <|
      guardSize_sound requireEraseAccesses_sound eraseArea_sound, fun _ => rfl⟩
  | areaProgram =>
    exact ⟨_, _, fun _ => requireArea_sound.seq <| requireSpiLayout_sound.seq <|
      guardSize_sound requireChangeAccesses_sound (requireStream_sound.seq programArea_sound), fun _ => rfl⟩
  | sessionEnd => exact ⟨_, _, fun _ => endSession_sound, fun _ => rfl⟩
  | _ => nomatch h

/-- The rows that are words of the other ports: a select, an exchange, a cycle or a transaction each. -/
theorem runsSound_word (i : Instr) (h : portOf 0 i ≠ .command) : RunsSound i := by
  cases i with
  | irIdcode | irImpcode | irAddress | irData | irControl | irAll | irEjtagboot | irNormalboot | irFastdata =>
    exact ⟨_, _, fun _ => selectCode_sound _, fun _ => rfl⟩
  | irBypass => exact ⟨_, _, fun _ => selectBypass_sound, fun _ => rfl⟩
  | ctlDmaRdW | ctlDmaRdH | ctlDmaWrW | ctlDmaWrH | ctlDmaPoll | ctlDmaEnd | ctlPraccPoll | ctlPraccDone | ctlHalt
  | ctlReset | ctlZero => exact ⟨_, _, fun _ => exchangeControl_sound _, fun _ => rfl⟩
  | amdUnlock1 | amdUnlock2 | amdAutoselect | amdEraseSetup | amdProgram | amdBypassEnter | sstUnlock1 | sstUnlock2
  | sstAutoselect | sstEraseSetup | sstProgram =>
    exact ⟨_, _, fun _ => withAddress_sound fun _ => offsetCycle_sound _ _, fun _ => rfl⟩
  | amdBypassProgram | amdBypassExit1 | amdBypassExit2 | amdReset | sstReset =>
    exact ⟨_, _, fun _ => withAddress_sound fun _ => baseCycle_sound _, fun _ => rfl⟩
  | amdSectorErase | sstSectorErase =>
    exact ⟨_, _, fun _ => withAddress_sound fun _ => norWrite_sound _ _, fun _ => rfl⟩
  | bscClearStatus =>
    exact ⟨_, _, fun _ => withAddress_sound fun _ => bscCycle_sound _ (·.bsc.clearStatus), fun _ => rfl⟩
  | bscUnlockSetup =>
    exact ⟨_, _, fun _ => withAddress_sound fun _ => bscCycle_sound _ (·.bsc.unlockSetup), fun _ => rfl⟩
  | bscConfirm =>
    exact ⟨_, _, fun _ => withAddress_sound fun _ => bscCycle_sound _ (·.bsc.confirm), fun _ => rfl⟩
  | bscEraseSetup =>
    exact ⟨_, _, fun _ => withAddress_sound fun _ => bscCycle_sound _ (·.bsc.eraseSetup), fun _ => rfl⟩
  | bscReadStatus =>
    exact ⟨_, _, fun _ => withAddress_sound fun _ => bscCycle_sound _ (·.bsc.readStatus), fun _ => rfl⟩
  | bscProgramSetup =>
    exact ⟨_, _, fun _ => withAddress_sound fun _ => bscCycle_sound _ (·.bsc.programSetup), fun _ => rfl⟩
  | bscReadId => exact ⟨_, _, fun _ => bscReadId_sound, fun _ => rfl⟩
  | bscReadArray => exact ⟨_, _, fun _ => bscReadArray_sound, fun _ => rfl⟩
  | spiWren | spiBe => exact ⟨_, _, fun _ => transact_sound _ none none, fun _ => rfl⟩
  | spiSe | spiPp => exact ⟨_, _, fun _ => withAddress_sound fun _ => transact_sound _ _ _, fun _ => rfl⟩
  | spiRdsr | spiRdid => exact ⟨_, _, fun _ => query_sound _, fun _ => rfl⟩
  | spiWrenBroadcomCtrl | spiRdsrBroadcomCtrl | spiSeBroadcomCtrl | spiPpBroadcomCtrl | spiRdidBroadcomCtrl
  | spiBeBroadcomCtrl => exact ⟨_, _, fun _ => startBroadcom_sound _, fun _ => rfl⟩
  | _ => exact absurd rfl h

theorem runsSound (i : Instr) : RunsSound i := by
  by_cases h : portOf 0 i = .command
  · exact runsSound_command i h
  · exact runsSound_word i h

/-! ## The frame of a command -/

/-- A state that meets the invariant, with the parameters `p`. -/
def Kept (p : Params) (t : State) : Prop :=
  Inv t ∧ t.cfg = p

/-- An idle block whose engine rests and meets the invariant. -/
theorem kept_idle {t : State} (hr : t.running = none) (he : EngineInv t.toEngine) (hrest : restingTap t.toEngine) :
    Kept t.cfg t :=
  ⟨⟨he, fun _ => hrest, fun r h => by rw [hr] at h; cases h⟩, rfl⟩

/-- A command starts at rest: in the state itself, or where the command in progress began. -/
theorem startPoint_atRest {s : State} (hs : Inv s) {i : Instr} (hi : ∀ r, s.running = some r → r.instr = i) :
    EngineInv (startPoint i s).1 ∧ restingTap (startPoint i s).1 ∧ (startPoint i s).1.cfg = s.cfg := by
  cases hr : s.running with
  | none =>
    rw [startPoint_idle hr]
    exact ⟨hs.engine, hs.resting hr, rfl⟩
  | some r =>
    have h := hs.running r hr
    simp only [startPoint, hr, if_pos (hi r hr)]
    exact ⟨h.engine, h.resting, h.parameters⟩

/-- However the operation of a command landed, the state after the step is kept. -/
theorem settle_keeps {i : Instr} {s : State} {start : Engine} {budget : Nat} {res : EStateM.Result Stop Run Unit}
    (hstart : EngineInv start) (hrest : restingTap start)
    (hrun : start.status.faulted = true → runsWhileFaulted i = true)
    (h : Lands start (fun _ => AtRest start) res) : Kept start.cfg (settle i s start budget res) := by
  match res, h with
  | .ok _ r, h => exact h.cfg ▸ kept_idle rfl h.inv h.resting
  | .error .faulted r, ⟨hinv, hresting, hcfg⟩ => exact hcfg ▸ kept_idle rfl hinv hresting
  | .error .paused r, h =>
    refine ⟨⟨h.inv, fun hn => (Option.some_ne_none _ hn).elim, fun run hsome => ?_⟩, h.cfg⟩
    obtain rfl := Option.some.inj hsome
    exact ⟨hstart, hrest, h.cfg.symm, h.faulted.symm, h.faultCode.symm, fun hf => hrun (h.faulted ▸ hf)⟩

theorem runCommand_keeps {i : Instr} {c : CommandClass} {body : Op Unit} {s t : State}
    (hb : ∀ start, Sound start body) (hs : Inv s) (hi : ∀ r, s.running = some r → r.instr = i)
    (h : runCommand i c body s = .next t) : Kept s.cfg t := by
  obtain ⟨hinv, hrest, hcfg⟩ := startPoint_atRest hs hi
  rw [← hcfg]
  simp only [runCommand] at h
  split at h
  next =>
    cases h
    exact kept_idle rfl hinv hrest
  next hrun =>
    cases h
    refine settle_keeps hinv hrest (fun hf => by simpa [hf] using hrun) ?_
    exact ((checkClass_sound c).seq (hb _)) _ ⟨⟨hinv, rfl, rfl, rfl⟩, hrest⟩

/-- An instruction run on an idle block, or the one in progress gone on with. -/
theorem exec_keeps {i : Instr} {s t : State} (hs : Inv s) (hi : ∀ r, s.running = some r → r.instr = i)
    (h : exec i s = .next t) : Kept s.cfg t := by
  obtain ⟨c, body, hb, hexec⟩ := runsSound i
  exact runCommand_keeps hb hs hi (hexec s ▸ h)

/-! ## The host's actions -/

/-- What the host has yet to do is no part of the invariant. -/
theorem Inv.withHost {s : State} (hs : Inv s) (acts : List HostAction) : Inv { s with host := acts } :=
  ⟨hs.engine, hs.resting, hs.running⟩

theorem blockReset_kept {s : State} (hs : Inv s) : Kept s.cfg (blockReset s) :=
  kept_idle (t := blockReset s) rfl ((EngineInv.reset hs.engine.irLength.1).of_vital rfl) (.inl rfl)

/-- An idle block of which the host writes a register or the streams. -/
theorem kept_of_vital {s : State} (hs : Inv s) (hr : s.running = none) {e : Engine}
    (hv : vital e = vital s.toEngine) (hc : e.cable = s.cable) : Kept s.cfg { s with toEngine := e } := by
  obtain ⟨hcfg, -⟩ := sameRecord_of_vital hv hc
  rw [← hcfg]
  exact kept_idle (t := { s with toEngine := e }) hr (hs.engine.of_vital hv)
    (by rw [restingTap, hc]; exact hs.resting hr)

theorem rejectCommand_kept {s : State} (hs : Inv s) (hr : s.running = none) (w : Word) :
    Kept s.cfg (rejectCommand w s) := by
  unfold rejectCommand
  split
  · exact ⟨hs, rfl⟩
  · exact kept_idle (t := { s with toEngine := faultedEngine .illegalCmd w s.toEngine }) hr
      (hs.engine.faulted (by decide) w) (hs.resting hr)

/-- An idle block has no command in progress to go on with. -/
theorem no_running {s : State} (hr : s.running = none) {i : Instr} : ∀ r, s.running = some r → r.instr = i := by
  simp [hr]

theorem startCommand_keeps {w : Word} {s t : State} (hs : Inv s) (hr : s.running = none)
    (h : startCommand w s = .next t) : Kept s.cfg t := by
  have written : Kept s.cfg (withCommandWord w s) := kept_of_vital hs hr (e := setRegs _ s.toEngine) rfl rfl
  unfold startCommand at h
  split at h
  next => exact exec_keeps (s := withCommandWord w s) written.1 (no_running hr) h
  next =>
    cases h
    exact rejectCommand_kept (s := withCommandWord w s) written.1 hr w

theorem presentWord_keeps {p : Port} {w : Word} {s t : State} (hs : Inv s) (hr : s.running = none)
    (h : presentWord p w s = .next t) : Kept s.cfg t := by
  unfold presentWord at h
  split at h
  next => exact startCommand_keeps hs hr h
  next =>
    split at h
    next => exact exec_keeps hs (no_running hr) h
    next =>
      cases h
      exact ⟨hs, rfl⟩

theorem hostTurn_keeps {act : HostAction} {s t : State} (hs : Inv s) (hr : s.running = none)
    (h : hostTurn act s = .next t) : Kept s.cfg t := by
  cases act with
  | writeA v =>
    cases h
    exact kept_of_vital hs hr rfl rfl
  | writeB v =>
    cases h
    exact kept_of_vital hs hr rfl rfl
  | writeCmd w => exact startCommand_keeps hs hr h
  | awaitIdle =>
    cases h
    exact ⟨hs, rfl⟩
  | openStreams ok bytes =>
    cases h
    exact kept_of_vital hs hr rfl rfl
  | blockReset =>
    cases h
    exact blockReset_kept hs
  | present p w => exact presentWord_keeps hs hr h

/-! ## The step -/

theorem idleTurn_keeps {s t : State} (hs : Inv s) (hr : s.running = none) (h : idleTurn s = .next t) :
    Kept s.cfg t := by
  unfold idleTurn at h
  split at h
  next =>
    cases h
    exact ⟨hs, rfl⟩
  next act rest _ => exact hostTurn_keeps (s := { s with host := rest }) (hs.withHost rest) hr h

theorem busyTurn_keeps {r : Running} {s t : State} (hs : Inv s) (hr : s.running = some r)
    (h : busyTurn r s = .next t) : Kept s.cfg t := by
  have goesOn (hexec : exec r.instr s = .next t) : Kept s.cfg t :=
    exec_keeps hs (fun r' h' => by rw [hr] at h'; exact Option.some.inj h' ▸ rfl) hexec
  have ignored (rest : List HostAction) : Kept s.cfg { s with host := rest } := ⟨hs.withHost rest, rfl⟩
  cases hacts : s.host with
  | nil =>
    rw [busyTurn, hacts] at h
    exact goesOn h
  | cons act rest =>
    rw [busyTurn, hacts] at h
    cases act with
    | blockReset =>
      cases h
      exact blockReset_kept (hs.withHost rest)
    | writeA | writeB | writeCmd =>
      cases h
      exact ignored rest
    | awaitIdle | openStreams | present => exact goesOn h

/-- Settles O3: every step of an idle or a busy block keeps the invariant and the parameters. -/
theorem invariantKept : Obligations.InvariantKept := by
  intro s t hs h
  unfold step at h
  split at h
  next r hr => exact busyTurn_keeps hs hr h
  next hr => exact idleTurn_keeps hs hr h

end Sys2Proof.Machine
end

section
/-!
STATUS field by field (10_state.md R26), the reset state, and what a step of an idle block does: nothing without a host
action, else what `hostTurn` makes of the first one.
-/

namespace Sys2Proof.Machine

/-! ## STATUS, from its flags up -/

theorem getLsbD_append_flagBit_zero {w : Nat} (x : BitVec w) (b : Bool) : (x ++ flagBit b).getLsbD 0 = b := by
  rw [BitVec.getLsbD_append]
  simp [flagBit]

theorem getLsbD_append_flagBit_succ {w : Nat} (x : BitVec w) (b : Bool) (i : Nat) :
    (x ++ flagBit b).getLsbD (i + 1) = x.getLsbD i := by
  simp [BitVec.getLsbD_append]

theorem extractLsb'_append_flagBit {w : Nat} (x : BitVec w) (b : Bool) (start len : Nat) :
    (x ++ flagBit b).extractLsb' (start + 1) len = x.extractLsb' start len :=
  BitVec.extractLsb'_append_eq_of_le (by omega)

theorem statusWord_flags (s : State) :
    (statusWord s).getLsbD 0 = s.running.isSome ∧ (statusWord s).getLsbD 1 = s.status.faulted
    ∧ (statusWord s).getLsbD 2 = s.status.dmaErr ∧ (statusWord s).getLsbD 3 = s.status.unknownCpu
    ∧ (statusWord s).getLsbD 4 = s.status.unknownFlash ∧ (statusWord s).getLsbD 5 = s.status.skipped
    ∧ (statusWord s).getLsbD 6 = s.status.inDebug ∧ (statusWord s).getLsbD 7 = s.cable.shadow.isSome := by
  simp only [statusWord, getLsbD_append_flagBit_zero, getLsbD_append_flagBit_succ, and_self]

/-- Above the eight flags stand TAP_STATE, the reserved bits, FAULT_CODE and DMA_FAILS. -/
theorem statusWord_above_flags (s : State) (start len : Nat) :
    (statusWord s).extractLsb' (start + 8) len
      = (s.status.dmaFails ++ faultNumber s.status.faultCode ++ 0#4 ++ tapStateField s.cable.shadow).extractLsb'
          start len := by
  simp only [statusWord, extractLsb'_append_flagBit]

theorem statusWord_tapState (s : State) : (statusWord s).extractLsb' 8 4 = tapStateField s.cable.shadow := by
  rw [statusWord_above_flags s 0, BitVec.extractLsb'_append_eq_right]

theorem statusWord_reserved (s : State) : (statusWord s).extractLsb' 12 4 = 0x0#4 := by
  rw [statusWord_above_flags s 4, BitVec.extractLsb'_append_eq_of_le (by decide)]
  exact BitVec.extractLsb'_append_eq_right

theorem statusWord_faultCode (s : State) :
    (statusWord s).extractLsb' 16 8 = faultNumber s.status.faultCode := by
  rw [statusWord_above_flags s 8, BitVec.extractLsb'_append_eq_of_le (by decide),
    BitVec.extractLsb'_append_eq_of_le (by decide)]
  exact BitVec.extractLsb'_append_eq_right

theorem statusWord_dmaFails (s : State) : (statusWord s).extractLsb' 24 8 = s.status.dmaFails := by
  rw [statusWord_above_flags s 16, BitVec.extractLsb'_append_eq_of_le (by decide),
    BitVec.extractLsb'_append_eq_of_le (by decide)]
  exact BitVec.extractLsb'_append_eq_left

/-- Settles O7: the flags and fields of STATUS, with the tables of R23 and R188 looked up row by row. -/
theorem statusLayout : Obligations.StatusLayout := by
  intro s
  obtain ⟨busy, faulted, dmaErr, unknownCpu, unknownFlash, skipped, inDebug, tapValid⟩ := statusWord_flags s
  refine ⟨busy, faulted, dmaErr, unknownCpu, unknownFlash, skipped, inDebug, tapValid, fun x hx hshadow => ?_,
    statusWord_reserved s, fun x hx hcode => ?_, statusWord_dmaFails s⟩
  · rw [statusWord_tapState, hshadow]
    exact (by decide : ∀ x ∈ _, tapStateField x.1 = x.2) x hx
  · rw [statusWord_faultCode, hcode]
    exact (by decide : ∀ x ∈ _, faultNumber x.1 = x.2) x hx

/-! ## The reset state -/

/-- Settles O1: each field of the reset state by computation. -/
theorem resetValues : Obligations.ResetValues :=
  ⟨rfl, rfl, by decide, rfl, rfl, rfl, rfl, rfl, rfl, rfl, rfl, rfl, rfl, rfl, rfl⟩

/-- Settles O2: the reset engine meets its invariant for every legal P_IR_LENGTH_UNKNOWN, and the one of reset, 5, is
legal; tap_shadow is UNKNOWN and no command is in progress. -/
theorem invariantAtReset : Obligations.InvariantAtReset where
  engine := EngineInv.reset (p := Config.params) rfl
  resting _ := .inl rfl
  running _ h := nomatch h

/-! ## A step of an idle block -/

theorem step_of_idle {s : State} (hidle : s.running = none) : step s = idleTurn s := by
  rw [step, hidle]

theorem step_idle_nil {s : State} (hidle : s.running = none) (hhost : s.host = []) : step s = .next s := by
  rw [step_of_idle hidle, idleTurn, hhost]

theorem step_idle_cons {s : State} {act : HostAction} {rest : List HostAction} (hidle : s.running = none)
    (hhost : s.host = act :: rest) : step s = hostTurn act { s with host := rest } := by
  rw [step_of_idle hidle, idleTurn, hhost]

theorem startCommand_of_decode {w : Word} {i : Instr} (hdecode : decode .command w = .ok i) (s : State) :
    startCommand w s = exec i (withCommandWord w s) := by
  rw [startCommand, hdecode]

theorem presentWord_of_decode {p : Port} {w : Word} {i : Instr} (hp : p ≠ .command) (hdecode : decode p w = .ok i)
    (s : State) : presentWord p w s = exec i s := by
  unfold presentWord
  split
  next => exact absurd rfl hp
  next => rw [hdecode]

/-- Settles O10: an idle block takes the host's action, and the word of a CMD write or a present decodes to `i`. -/
theorem stepRunsDecoded : Obligations.StepRunsDecoded := by
  constructor
  · intro s w i rest hidle hhost hdecode
    rw [step_idle_cons hidle hhost]
    exact startCommand_of_decode hdecode _
  · intro s p w i rest hidle hp hhost hdecode
    rw [step_idle_cons hidle hhost]
    exact presentWord_of_decode hp hdecode _

/-- Settles O11: an idle block takes the host's action, whose effect is its case of `hostTurn`. -/
theorem hostActions : Obligations.HostActions := by
  intro s rest hidle
  exact ⟨fun _ hhost => step_idle_cons hidle hhost, fun _ hhost => step_idle_cons hidle hhost,
    fun hhost => step_idle_cons hidle hhost, fun _ _ hhost => step_idle_cons hidle hhost,
    fun hhost => step_idle_nil hidle hhost⟩

end Sys2Proof.Machine
end

section
/-!
Halfword lanes (20_memory.md R52, R53): the lane each byte order takes of a datum, and the two equal lanes of a halfword
write.
-/

namespace Sys2Proof.Machine

theorem lane_little (addr d : Word) : lane .little addr d = if addr.getLsbD 1 then highHalf d else lowHalf d := by
  unfold lane
  cases addr.getLsbD 1 <;> rfl

theorem lane_big (addr d : Word) : lane .big addr d = if addr.getLsbD 1 then lowHalf d else highHalf d := by
  unfold lane
  cases addr.getLsbD 1 <;> rfl

@[simp] theorem lowHalf_hw16 (h : Half) : lowHalf (hw16 h) = h :=
  BitVec.extractLsb'_append_eq_right

@[simp] theorem highHalf_hw16 (h : Half) : highHalf (hw16 h) = h :=
  BitVec.extractLsb'_append_eq_left

/-- Both lanes hold the halfword, so the byte order does not matter (20_memory.md R53). -/
@[simp] theorem lane_hw16 (endian : Endian) (addr : Word) (h : Half) : lane endian addr (hw16 h) = h := by
  unfold lane
  split
  · exact highHalf_hw16 h
  · exact lowHalf_hw16 h

/-- Settles O34: a read's lane by address bit 1 and byte order, and a write's by its two equal halves. -/
theorem halfwordLanes : Obligations.HalfwordLanes := by
  intro addr d h
  refine ⟨fun hbit => ⟨?_, ?_⟩, fun hbit => ⟨?_, ?_⟩, lowHalf_hw16 h, highHalf_hw16 h,
    fun endian => lane_hw16 endian addr h⟩
  · rw [lane_little, if_pos hbit, highHalf]
  · rw [lane_big, if_pos hbit, lowHalf]
  · rw [lane_little, hbit, if_neg Bool.false_ne_true, lowHalf]
  · rw [lane_big, hbit, if_neg Bool.false_ne_true, highHalf]

end Sys2Proof.Machine
end

section
/-!
The decoder against the encoder (30_encoding.md R66-R69, R76-R89): what each lookup finds, what `decode` accepts at each
port, and that encoding a row and decoding its word are inverse up to the bits an instruction register drops (R76).
-/

namespace Sys2Proof

/-! ## The lookups -/

theorem orReject_eq_ok_iff {why : Reject} {found : Option Instr} {i : Instr} :
    orReject why found = .ok i ↔ found = some i := by
  cases found <;> simp [orReject]

/-- The rows of a port other than an instruction register, with the number of their word there. -/
def RowAt (p : Port) (n : Nat) (i : Instr) : Prop :=
  portOf 0 i = p ∧ (encodeWord 0 i).toNat = n

theorem rowAt_of_decodeOp {n : Nat} {i : Instr} (h : decodeOp n = some i) : RowAt .command n i := by
  unfold decodeOp at h
  split at h <;> cases h <;> exact ⟨rfl, rfl⟩

theorem rowAt_of_decodeControlValue {n : Nat} {i : Instr} (h : decodeControlValue n = some i) :
    RowAt .control n i := by
  unfold decodeControlValue at h
  split at h <;> cases h <;> exact ⟨rfl, rfl⟩

theorem rowAt_of_decodeCycle {family : NorFamily} {site : NorSite} {n : Nat} {i : Instr}
    (h : decodeCycle family site n = some i) : RowAt (.nor family site) n i := by
  unfold decodeCycle at h
  split at h <;> cases h <;> exact ⟨rfl, rfl⟩

theorem rowAt_of_decodeSpiOpcode {n : Nat} {i : Instr} (h : decodeSpiOpcode n = some i) :
    RowAt .spiOpcode n i := by
  unfold decodeSpiOpcode at h
  split at h <;> cases h <;> exact ⟨rfl, rfl⟩

theorem rowAt_of_decodeSpiControl {n : Nat} {i : Instr} (h : decodeSpiControl n = some i) :
    RowAt .spiControl n i := by
  unfold decodeSpiControl at h
  split at h <;> cases h <;> exact ⟨rfl, rfl⟩

/-! ## Instruction codes (30_encoding.md R76-R78) -/

theorem decodeIrCode_eq_some_iff {n : Nat} {i : Instr} :
    decodeIrCode n = some i ↔ ∃ code, assignedIrCode i = some code ∧ code.toNat = n := by
  constructor
  · intro h
    unfold decodeIrCode at h
    split at h <;> cases h <;> exact ⟨_, rfl, rfl⟩
  · rintro ⟨code, h, rfl⟩
    cases i with
    | irIdcode | irImpcode | irAddress | irData | irControl | irAll | irEjtagboot | irNormalboot | irFastdata =>
      cases h
      rfl
    | _ => nomatch h

/-- A row with an assigned code stands at the instruction register, its word is the code, and it is well formed where
the code fits and is not BYPASS. -/
theorem assignedIrCode_row {i : Instr} {code : Word} (h : assignedIrCode i = some code) (length : Nat) :
    portOf length i = .instructionRegister length ∧ encodeWord length i = code
      ∧ wellFormed length i = (legalIrLength length && decide (code.toNat + 1 < 2 ^ length)) := by
  cases i with
  | irIdcode | irImpcode | irAddress | irData | irControl | irAll | irEjtagboot | irNormalboot | irFastdata =>
    cases h
    exact ⟨rfl, rfl, rfl⟩
  | _ => nomatch h

/-- BYPASS is all ones also as a word, since a legal length has at most 32 bits (10_state.md R29). -/
theorem toNat_encodeWord_irBypass {length : Nat} (legal : legalIrLength length = true) :
    (encodeWord length .irBypass).toNat = 2 ^ length - 1 := by
  have fits : 2 ^ length ≤ 2 ^ 32 := Nat.pow_le_pow_right (by decide) (of_decide_eq_true legal).2
  have pos : 0 < 2 ^ length := Nat.two_pow_pos length
  exact Nat.mod_eq_of_lt (by omega)

/-- What an instruction register accepts: all ones of its length as BYPASS, and the assigned codes. -/
theorem decodeIr_eq_ok_iff {length : Nat} {w : Word} {i : Instr} :
    decodeIr length w = .ok i ↔ legalIrLength length = true ∧
      ((w.toNat % 2 ^ length + 1 = 2 ^ length ∧ i = .irBypass)
        ∨ (w.toNat % 2 ^ length + 1 ≠ 2 ^ length ∧ decodeIrCode (w.toNat % 2 ^ length) = some i)) := by
  unfold decodeIr
  by_cases legal : legalIrLength length = true
  · by_cases ones : w.toNat % 2 ^ length + 1 = 2 ^ length
    · simp [legal, ones, eq_comm]
    · cases hcode : decodeIrCode (w.toNat % 2 ^ length) <;> simp [legal, ones, hcode]
  · simp [legal]

/-! ## From a word to its row -/

/-- The row and the word agree at a port: the row belongs there and its word is `w`, of which an instruction register
takes only its own bits (30_encoding.md R76). -/
def StandsFor (p : Port) (w : Word) (i : Instr) : Prop :=
  belongsAt p i = true
    ∧ match p with
      | .instructionRegister length => (encodeWord length i).toNat = w.toNat % 2 ^ length
      | _ => encodeWord 0 i = w

theorem RowAt.word {p : Port} {w : Word} {i : Instr} (h : RowAt p w.toNat i) :
    decide (portOf 0 i = p) = true ∧ encodeWord 0 i = w :=
  ⟨decide_eq_true h.1, BitVec.eq_of_toNat_eq h.2⟩

/-- A word without reserved bits is its low part (30_encoding.md R66). -/
theorem toNat_low_byte {w : Word} (h : w.extractLsb' 8 24 = 0#24) : (w.extractLsb' 0 8).toNat = w.toNat := by
  have high : w.toNat / 2 ^ 8 % 2 ^ 24 = 0 := by simpa [Nat.shiftRight_eq_div_pow] using congrArg BitVec.toNat h
  have := w.isLt
  simp only [BitVec.extractLsb'_toNat, Nat.shiftRight_zero]
  omega

theorem standsFor_of_decodeCommand {w : Word} {i : Instr} (h : decodeCommand w = .ok i) :
    StandsFor .command w i := by
  unfold decodeCommand at h
  split at h
  next => nomatch h
  next reserved =>
    have low := toNat_low_byte (not_not.mp reserved)
    split at h
    next _ hop =>
      cases h
      exact (low ▸ rowAt_of_decodeOp hop).word
    next => nomatch h

theorem standsFor_of_decodeIr {length : Nat} {w : Word} {i : Instr} (h : decodeIr length w = .ok i) :
    StandsFor (.instructionRegister length) w i := by
  obtain ⟨legal, ⟨ones, rfl⟩ | ⟨notOnes, hcode⟩⟩ := decodeIr_eq_ok_iff.mp h
  · refine ⟨by simpa [belongsAt, portOf, wellFormed, assignedIrCode] using legal, ?_⟩
    have := toNat_encodeWord_irBypass legal
    simp only
    omega
  · obtain ⟨code, assigned, value⟩ := decodeIrCode_eq_some_iff.mp hcode
    obtain ⟨port, word, wf⟩ := assignedIrCode_row assigned length
    have small : w.toNat % 2 ^ length < 2 ^ length := Nat.mod_lt _ (Nat.two_pow_pos length)
    have fits : code.toNat + 1 < 2 ^ length := by omega
    exact ⟨by simp [belongsAt, port, wf, legal, fits], by simp only [word, value]⟩

theorem standsFor_of_decode {p : Port} {w : Word} {i : Instr} (h : decode p w = .ok i) : StandsFor p w i := by
  cases p with
  | command => exact standsFor_of_decodeCommand h
  | instructionRegister length => exact standsFor_of_decodeIr h
  | control => exact (rowAt_of_decodeControlValue (orReject_eq_ok_iff.mp h)).word
  | nor family site =>
    simp only [decode] at h
    split at h
    next => nomatch h
    next => exact (rowAt_of_decodeCycle (orReject_eq_ok_iff.mp h)).word
  | spiOpcode =>
    simp only [decode] at h
    split at h
    next => nomatch h
    next => exact (rowAt_of_decodeSpiOpcode (orReject_eq_ok_iff.mp h)).word
  | spiControl => exact (rowAt_of_decodeSpiControl (orReject_eq_ok_iff.mp h)).word

/-! ## From a row to its word -/

theorem decodeIr_assigned {length : Nat} {i : Instr} {code : Word} (assigned : assignedIrCode i = some code)
    (wf : wellFormed length i = true) : decodeIr length (encodeWord length i) = .ok i := by
  obtain ⟨-, word, hwf⟩ := assignedIrCode_row assigned length
  simp only [hwf, Bool.and_eq_true, decide_eq_true_eq] at wf
  obtain ⟨legal, fits⟩ := wf
  have low : code.toNat % 2 ^ length = code.toNat := Nat.mod_eq_of_lt (by omega)
  rw [word]
  refine decodeIr_eq_ok_iff.mpr ⟨legal, .inr ?_⟩
  rw [low]
  exact ⟨by omega, decodeIrCode_eq_some_iff.mpr ⟨code, assigned, rfl⟩⟩

theorem decodeIr_bypass {length : Nat} (legal : legalIrLength length = true) :
    decodeIr length (encodeWord length .irBypass) = .ok .irBypass := by
  have pos : 0 < 2 ^ length := Nat.two_pow_pos length
  refine decodeIr_eq_ok_iff.mpr ⟨legal, .inl ⟨?_, rfl⟩⟩
  rw [toNat_encodeWord_irBypass legal, Nat.mod_eq_of_lt (by omega)]
  omega

/-- At every other port the word of a row does not depend on the IR length. -/
theorem encode_of_not_ir {i : Instr} (h : portOf 0 i ≠ .instructionRegister 0) (length : Nat) :
    encode length i = encode 0 i := by
  cases i with
  | irIdcode | irImpcode | irAddress | irData | irControl | irAll | irEjtagboot | irNormalboot | irFastdata
  | irBypass => exact absurd rfl h
  | _ => rfl

/-- The tables of the other ports, row by row. -/
theorem decode_encode_of_not_ir {i : Instr} (h : portOf 0 i ≠ .instructionRegister 0) :
    decode (encode 0 i).1 (encode 0 i).2 = .ok i := by
  cases i with
  | irIdcode | irImpcode | irAddress | irData | irControl | irAll | irEjtagboot | irNormalboot | irFastdata
  | irBypass => exact absurd rfl h
  | _ => exact rfl

/-- Settles O13: an instruction register finds the codes that fit it, and BYPASS as all ones; every other port finds
each row of its table. -/
theorem roundTrip : Obligations.RoundTrip := by
  intro length i wf
  by_cases h : portOf 0 i = .instructionRegister 0
  · cases i with
    | irIdcode | irImpcode | irAddress | irData | irControl | irAll | irEjtagboot | irNormalboot | irFastdata =>
      exact decodeIr_assigned rfl wf
    | irBypass => exact decodeIr_bypass wf
    | _ => nomatch h
  · rw [encode_of_not_ir h]
    exact decode_encode_of_not_ir h

/-- Settles O14: port by port, what a lookup finds stands for the word. -/
theorem decodedWordIsEncoded : Obligations.DecodedWordIsEncoded :=
  fun _ _ _ h => standsFor_of_decode h

/-- Settles O15: each word is looked up in its table. -/
theorem decodedWords : Obligations.DecodedWords :=
  ⟨rfl, rfl, rfl, rfl, rfl, rfl, rfl, rfl, rfl, rfl, rfl, rfl, rfl⟩

/-! ## The reserved command words (30_encoding.md R69) -/

/-- The operation codes that are no row of the opcode map. -/
def ReservedOp (op : Nat) : Prop :=
  op = 0x00 ∨ (0x06 ≤ op ∧ op ≤ 0x0F) ∨ (0x19 ≤ op ∧ op ≤ 0x1F) ∨ (0x25 ≤ op ∧ op ≤ 0x2F) ∨ op = 0x3F
    ∨ (0x47 ≤ op ∧ op ≤ 0x4F) ∨ (0x53 ≤ op ∧ op ≤ 0x5F) ∨ (0x61 ≤ op ∧ op ≤ 0xFF)

theorem decodeOp_eq_none_iff {op : Nat} (h : op < 256) : decodeOp op = none ↔ ReservedOp op := by
  unfold decodeOp
  split
  on_goal -1 =>
    -- `op` is the code of no row: what is left below 256 are the reserved ranges
    simp only [imp_false, true_iff, ReservedOp] at *
    omega
  all_goals simp [ReservedOp]

theorem decodeCommand_rejects_iff {w : Word} :
    (∃ why, decodeCommand w = .error why) ↔ w.extractLsb' 8 24 ≠ 0#24 ∨ ReservedOp (w.toNat % 256) := by
  have low : (w.extractLsb' 0 8).toNat = w.toNat % 256 := by simp
  unfold decodeCommand
  by_cases reserved : w.extractLsb' 8 24 = 0#24
  · rw [← decodeOp_eq_none_iff (Nat.mod_lt _ (by decide)), low]
    cases decodeOp (w.toNat % 256) <;> simp [reserved]
  · simp [reserved]

end Sys2Proof
end

section
/-!
What the encoded rows do when they are run: a CMD write of a reserved word, and the rows of the instruction register, of
CONTROL and of the NOR cycles, each performed by itself (assumption 4).
-/

namespace Sys2Proof.Machine

/-! ## Reserved command words (30_encoding.md R69, 60_exceptions.md R189-R191) -/

theorem startCommand_of_reject {w : Word} {why : Reject} (hdecode : decode .command w = .error why) (s : State) :
    startCommand w s = .next (rejectCommand w (withCommandWord w s)) := by
  rw [startCommand, hdecode]

theorem rejectCommand_of_faulted {w : Word} {s : State} (hf : s.status.faulted = true) : rejectCommand w s = s :=
  if_pos hf

theorem rejectCommand_of_not_faulted {w : Word} {s : State} (hf : s.status.faulted = false) :
    rejectCommand w s = { s with
      regs := { s.regs with result := w }
      status := { s.status with faulted := true, faultCode := .illegalCmd } } := by
  simp only [rejectCommand, faultedEngine, setResult, setRegs, setStatus, faultedStatus, hf, Bool.false_eq_true,
    if_false]

/-- Settles O16: the reserved words are the reserved operation codes and the words with reserved bits; the CMD write of
one is an idle block's action that starts no command. -/
theorem illegalCommand : Obligations.IllegalCommand := by
  refine ⟨fun _ => decodeCommand_rejects_iff, fun s w why rest hidle hhost hdecode => ?_⟩
  have written : step s = .next (rejectCommand w (withCommandWord w { s with host := rest })) :=
    (step_idle_cons hidle hhost).trans (startCommand_of_reject hdecode _)
  rw [written]
  refine ⟨fun hf => ?_, fun hf => ?_⟩
  · rw [rejectCommand_of_not_faulted (by exact hf)]
    rfl
  · rw [rejectCommand_of_faulted (by exact hf)]
    rfl

/-! ## Rows of the other ports -/

section
variable {length : Nat} {s : State}

/-- A SetIR drives at most `length + 6` clocks, and no answer is wanted (40_tap.md R96). -/
theorem follows_select (code : Word) (hn : length + 6 ≤ clocksAllowed s) : follows length [.select code] s := by
  refine ⟨rfl, ?_⟩
  simp only [scriptClocks]
  split
  · exact Nat.zero_le _
  · simpa using hn

/-- A SetIR and one RWData with any answer. -/
theorem follows_selectSwap (code v : Word) (hn : length + 43 ≤ clocksAllowed s) :
    follows length [.select code, .swap v anyReply] s := by
  refine ⟨rfl, ?_⟩
  simp only [scriptClocks]
  split <;> simp <;> omega

/-- A row that is SetIR of an assigned code. -/
theorem exec_selectCode {i : Instr} {code : IrCodes → Word} (h : ready length s) (hn : length + 6 ≤ clocksAllowed s)
    (hexec : exec i s = runCommand i .irUsing (selectCode code) s) :
    exec i s = .next (ending (afterScript length [.select (code s.cfg.ir)] s.toEngine) s) :=
  hexec.trans (runCommand_does h (Does.get (setIR_does length _ _)) (follows_select _ hn))

theorem selectBypass_does {e : Engine} (hl : e.tap.irLength = some length) :
    Does selectBypass length e [.select (bypassCode length)] ()
      (afterScript length [.select (bypassCode length)] e) := by
  refine Does.get ?_
  rw [hl]
  exact setIR_does length _ e

theorem exec_irBypass (h : ready length s) (hn : length + 6 ≤ clocksAllowed s) :
    exec .irBypass s = .next (ending (afterScript length [.select (bypassCode length)] s.toEngine) s) :=
  runCommand_does h (selectBypass_does h.2.2) (follows_select _ hn)

/-- The word an RWData captures after a SetIR, which drives clocks only if the instruction is not cached. -/
theorem replyAt_afterSelect (code : Word) (e : Engine) :
    replyAt (afterScript length [.select code] e).cable 0
      = replyAt e.cable (if e.tap.irCache = some code then 0 else length + 6) := by
  rw [afterScript_cable, replyAt_driven]
  simp only [scriptClocks]
  split <;> simp

theorem exchangeControl_does (value : ControlBits → Word) (e : Engine) :
    Does (exchangeControl value) length e [.select e.cfg.ir.control, .swap (value e.cfg.ctl) anyReply] ()
      (setResult (replyAt e.cable (if e.tap.irCache = some e.cfg.ir.control then 0 else length + 6))
        (afterScript length [.select e.cfg.ir.control, .swap (value e.cfg.ctl) anyReply] e)) := by
  rw [← replyAt_afterSelect]
  refine Does.congr (Does.step (selectControl_does length e) (Does.get (Does.step
    (rwData_does length (value e.cfg.ctl) anyReply _) (Does.last (setResult _) _)))) rfl ?_
  rw [← afterScript_append]
  rfl

/-- A row that is CTRL of a value (30_encoding.md R72). -/
theorem exec_exchangeControl {i : Instr} {value : ControlBits → Word} (h : ready length s)
    (hn : length + 43 ≤ clocksAllowed s) (hexec : exec i s = runCommand i .irUsing (exchangeControl value) s) :
    exec i s = .next (ending
      (setResult (replyAt s.cable (if s.tap.irCache = some s.cfg.ir.control then 0 else length + 6))
        (afterScript length [.select s.cfg.ir.control, .swap (value s.cfg.ctl) anyReply] s.toEngine)) s) :=
  hexec.trans (runCommand_does h (exchangeControl_does value _) (follows_selectSwap _ _ hn))

/-- A row that is one NOR cycle on the engine it finds. -/
theorem exec_norCycle {i : Instr} {body : Op Unit} {addr : Word} {datum : Half} (h : ready length s)
    (hexec : exec i s = runCommand i .irUsing body s)
    (hb : Issues body length s.toEngine [cycle addr datum] () (afterBus length [cycle addr datum] s.toEngine))
    (hf : serves length [cycle addr datum] s) :
    exec i s = .next (ending (afterBus length [cycle addr datum] s.toEngine) s) :=
  hexec.trans (runCommand_issues h hb hf)

end

/-! ## The statements, row by row -/

/-- Settles O22: each row is SetIR of its parameter, and BYPASS of the code of its IR length. -/
theorem instructionCodeRows : Obligations.InstructionCodeRows := by
  intro length s h hn
  simp only [List.forall_mem_cons, List.not_mem_nil, false_implies, implies_true, and_true]
  have row (i : Instr) (code : IrCodes → Word) := exec_selectCode (i := i) (code := code) h hn
  exact ⟨row .irIdcode (·.idcode) rfl, row .irImpcode (·.impcode) rfl, row .irAddress (·.address) rfl,
    row .irData (·.data) rfl, row .irControl (·.control) rfl, row .irAll (·.all) rfl,
    row .irEjtagboot (·.ejtagboot) rfl, row .irNormalboot (·.normalboot) rfl, row .irFastdata (·.fastdata) rfl,
    exec_irBypass h hn⟩

/-- Settles O23: each row is CTRL of its value. -/
theorem controlValueRows : Obligations.ControlValueRows := by
  intro length s h hn
  simp only [List.forall_mem_cons, List.not_mem_nil, false_implies, implies_true, and_true]
  have row (i : Instr) (value : ControlBits → Word) := exec_exchangeControl (i := i) (value := value) h hn
  exact ⟨row .ctlDmaRdW (ctlDmaRead · .word) rfl, row .ctlDmaRdH (ctlDmaRead · .half) rfl,
    row .ctlDmaWrW (ctlDmaWrite · .word) rfl, row .ctlDmaWrH (ctlDmaWrite · .half) rfl,
    row .ctlDmaPoll ctlDmaPoll rfl, row .ctlDmaEnd ctlDmaEnd rfl, row .ctlPraccPoll ctlPraccPoll rfl,
    row .ctlPraccDone ctlPraccDone rfl, row .ctlHalt ctlHalt rfl, row .ctlReset ctlReset rfl,
    row .ctlZero (fun _ => ctlZero) rfl⟩

/-- Settles O48: each row issues the one cycle of its operation, at the address its command set gives it. -/
theorem norCycleRows : Obligations.NorCycleRows := by
  intro length s h
  simp only [List.forall_mem_cons, List.not_mem_nil, false_implies, implies_true, and_true]
  have row (i : Instr) {body : Op Unit} {addr : Word} {datum : Half} :=
    exec_norCycle (i := i) (body := body) (addr := addr) (datum := datum) h
  exact ⟨row .amdUnlock1 rfl (Issues.get (amdUnlock1_issues length _ _)),
    row .amdUnlock2 rfl (Issues.get (amdUnlock2_issues length _ _)),
    row .amdAutoselect rfl (Issues.get (amdAutoselect_issues length _ _)),
    row .amdEraseSetup rfl (Issues.get (amdEraseSetup_issues length _ _)),
    row .amdSectorErase rfl (Issues.get (amdSectorErase_issues length _ _ _)),
    row .amdProgram rfl (Issues.get (amdProgram_issues length _ _)),
    row .amdBypassEnter rfl (Issues.get (amdBypassEnter_issues length _ _)),
    row .amdBypassProgram rfl (Issues.get (amdBypassProgram_issues length _ _)),
    row .amdBypassExit1 rfl (Issues.get (amdBypassExit1_issues length _ _)),
    row .amdBypassExit2 rfl (Issues.get (amdBypassExit2_issues length _ _)),
    row .amdReset rfl (Issues.get (amdReset_issues length _ _)),
    row .sstUnlock1 rfl (Issues.get (amdUnlock1_issues length _ _)),
    row .sstUnlock2 rfl (Issues.get (amdUnlock2_issues length _ _)),
    row .sstAutoselect rfl (Issues.get (amdAutoselect_issues length _ _)),
    row .sstEraseSetup rfl (Issues.get (amdEraseSetup_issues length _ _)),
    row .sstSectorErase rfl (Issues.get (amdSectorErase_issues length _ _ _)),
    row .sstProgram rfl (Issues.get (amdProgram_issues length _ _)),
    row .sstReset rfl (Issues.get (amdReset_issues length _ _)),
    row .bscClearStatus rfl (Issues.get (bscClearStatus_issues length _ _)),
    row .bscUnlockSetup rfl (Issues.get (bscUnlockSetup_issues length _ _)),
    row .bscConfirm rfl (Issues.get (bscConfirm_issues length _ _)),
    row .bscEraseSetup rfl (Issues.get (bscEraseSetup_issues length _ _)),
    row .bscReadStatus rfl (Issues.get (bscReadStatus_issues length _ _)),
    row .bscProgramSetup rfl (Issues.get (bscProgramSetup_issues length _ _)),
    row .bscReadId rfl (bscReadId_issues length _), row .bscReadArray rfl (bscReadArray_issues length _)⟩

/-- Settles O24: the bits of R79 put together as R80 says. -/
theorem controlValues : Obligations.ControlValues := by
  unfold Obligations.ControlValues
  decide

end Sys2Proof.Machine
end

section
/-!
The checks of the command classes and the commands that drive no clock (40_tap.md R93, R102, R106-R108): a fault taken
before anything changes leaves the state with the fault alone, and a setting replaces what its rule names.
-/

namespace Sys2Proof.Machine

/-! ## Commands without clocks -/

/-- One operation after another that drives no clock. -/
theorem Ends.before {α β : Type} {op : Op α} {f : α → Op β} {e e' e'' : Engine} {n : Nat} {x : α} {y : β}
    (h : Ends op e 0 x e') (k : Ends (f x) e' n y e'') : Ends (op >>= f) e n y e'' :=
  Nat.zero_add n ▸ h.bind k

/-- A fault taken after an operation that drives no clock. -/
theorem Ends.beforeRaises {α β : Type} {op : Op α} {f : α → Op β} {e e' e'' : Engine} {n : Nat} {x : α}
    (h : Ends op e 0 x e') (k : Raises (f x) e' n e'') : Raises (op >>= f) e n e'' :=
  Nat.zero_add n ▸ h.raises k

theorem Ends.get {β : Type} {f : Engine → Op β} {e e' : Engine} {n : Nat} {y : β} (h : Ends (f e) e n y e') :
    Ends (getEngine >>= f) e n y e' :=
  (getEngine_ends e).before h

theorem Raises.get {β : Type} {f : Engine → Op β} {e e' : Engine} {n : Nat} (h : Raises (f e) e n e') :
    Raises (getEngine >>= f) e n e' :=
  (getEngine_ends e).beforeRaises h

section
variable {s : State}

theorem ending_of_idle (h : s.running = none) (e : Engine) : ending e s = { s with toEngine := e } := by
  rw [ending, ← h]

/-- The first fault of an idle block (60_exceptions.md R190). -/
theorem ending_faultedEngine (h : accepting s) (code : FaultCode) (info : Word) :
    ending (faultedEngine code info s.toEngine) s = { s with
      regs := { s.regs with result := info }
      status := { s.status with faulted := true, faultCode := code } } := by
  obtain ⟨hidle, hfaulted⟩ := h
  rw [ending_of_idle hidle]
  simp only [faultedEngine, setResult, setRegs, setStatus, faultedStatus, hfaulted, Bool.false_eq_true, if_false]

/-- A command that takes a fault before it has changed anything. -/
theorem runCommand_faults {i : Instr} {c : CommandClass} {body : Op Unit} {code : FaultCode} {info : Word}
    (h : accepting s)
    (hb : Raises (do checkClass c; body : Op Unit) s.toEngine 0 (faultedEngine code info s.toEngine)) :
    runCommand i c body s = .next { s with
      regs := { s.regs with result := info }
      status := { s.status with faulted := true, faultCode := code } } :=
  (runCommand_raises h hb (Nat.zero_le _)).trans (congrArg _ (ending_faultedEngine h code info))

/-- A command whose checks pass and whose operand is at fault. -/
theorem runCommand_rejects {i : Instr} {c : CommandClass} {body : Op Unit} {code : FaultCode} {info : Word}
    (h : accepting s) (hc : Ends (checkClass c) s.toEngine 0 () s.toEngine)
    (hb : Raises body s.toEngine 0 (faultedEngine code info s.toEngine)) :
    runCommand i c body s = .next { s with
      regs := { s.regs with result := info }
      status := { s.status with faulted := true, faultCode := code } } :=
  runCommand_faults h (hc.beforeRaises hb)

/-- A command without checks that drives no clock. -/
theorem runCommand_sets {i : Instr} {body : Op Unit} {e : Engine} (h : accepting s)
    (hb : Ends body s.toEngine 0 () e) : runCommand i .noClocks body s = .next { s with toEngine := e } :=
  (runCommand_ends (c := .noClocks) h (Ends.pure () s.toEngine) hb (Nat.zero_le _)).trans
    (congrArg _ (ending_of_idle h.1 e))

end

/-! ## The checks of the classes (40_tap.md R93) -/

theorem requireIdleTap_ends {e : Engine} (h : e.cable.shadow = some .runTestIdle) : Ends requireIdleTap e 0 () e :=
  .get (by rw [if_pos h]; exact Ends.pure () e)

theorem requireIdleTap_raises {e : Engine} (h : e.cable.shadow ≠ some .runTestIdle) :
    Raises requireIdleTap e 0 (faultedEngine .tapUnsync e.regs.cmd e) :=
  .get (by rw [if_neg h]; exact raiseWithCommand_raises _ e)

theorem requireIrLength_raises {e : Engine} (h : e.tap.irLength = none) :
    Raises requireIrLength e 0 (faultedEngine .noIrLen e.regs.cmd e) :=
  .get (by rw [if_pos h]; exact raiseWithCommand_raises _ e)

/-- Both classes check the TAP first. -/
theorem checkClass_raises_tapUnsync {c : CommandClass} {e : Engine} (hc : c = .irUsing ∨ c = .drOnly)
    (h : e.cable.shadow ≠ some .runTestIdle) :
    Raises (checkClass c) e 0 (faultedEngine .tapUnsync e.regs.cmd e) := by
  rcases hc with rfl | rfl
  · exact (requireIdleTap_raises h).bind
  · exact requireIdleTap_raises h

theorem checkClass_raises_noIrLen {e : Engine} (hs : e.cable.shadow = some .runTestIdle) (hl : e.tap.irLength = none) :
    Raises (checkClass .irUsing) e 0 (faultedEngine .noIrLen e.regs.cmd e) :=
  (requireIdleTap_ends hs).beforeRaises (requireIrLength_raises hl)

theorem exec_irUsing {i : Instr} (h : i ∈ irUsingCommands) :
    ∃ body, ∀ s, exec i s = runCommand i .irUsing body s := by
  cases i with
  | tapSetir | features | procReset | procHalt | procResume | depcRead | depcWrite | memRead32 | memRead16
  | memWrite32 | memWrite16 | dmaRead32 | dmaRead16 | dmaWrite32 | dmaWrite16 | praccRead32 | praccRead16
  | praccWrite32 | praccWrite16 | execModule | flashProbe | flashEraseBlock | flashProgramWord | flashResetRead
  | flashBypassEnter | flashBypassExit | spiChipErase | areaBackup | areaErase | areaProgram =>
    exact ⟨_, fun _ => rfl⟩
  | _ => exact absurd h (by decide)

theorem exec_drOnly {i : Instr} (h : i ∈ drOnlyCommands) :
    ∃ body, ∀ s, exec i s = runCommand i .drOnly body s := by
  cases i with
  | tapRwdata | tapRdata | tapWdata => exact ⟨_, fun _ => rfl⟩
  | _ => exact absurd h (by decide)

theorem exec_checked {i : Instr} (h : i ∈ irUsingCommands ∨ i ∈ drOnlyCommands) :
    ∃ c body, (c = .irUsing ∨ c = .drOnly) ∧ ∀ s, exec i s = runCommand i c body s := by
  rcases h with h | h
  · obtain ⟨body, hexec⟩ := exec_irUsing h
    exact ⟨.irUsing, body, .inl rfl, hexec⟩
  · obtain ⟨body, hexec⟩ := exec_drOnly h
    exact ⟨.drOnly, body, .inr rfl, hexec⟩

/-- Settles O17: a check that fails ends the command before its operation begins. -/
theorem classChecks : Obligations.ClassChecks := by
  refine fun s h => ⟨fun i hi hs => ?_, fun i hi hs hl => ?_⟩
  · obtain ⟨c, body, hc, hexec⟩ := exec_checked hi
    exact (hexec s).trans (runCommand_faults h (checkClass_raises_tapUnsync hc hs).bind)
  · obtain ⟨body, hexec⟩ := exec_irUsing hi
    exact (hexec s).trans (runCommand_faults h (checkClass_raises_noIrLen hs hl).bind)

/-! ## The session settings (40_tap.md R102, R106-R108) -/

section
variable {e : Engine}

theorem setIrLength_ends (h : legalIrLength e.regs.a.toNat = true) :
    Ends setIrLength e 0 () (setTap (fun _ => { irCache := none, irLength := some e.regs.a.toNat }) e) :=
  .get (by rw [if_pos h]; exact modifyEngine_ends _ e)

theorem setIrLength_raises (h : legalIrLength e.regs.a.toNat = false) :
    Raises setIrLength e 0 (faultedEngine .badOperand e.regs.a e) :=
  .get (by rw [h]; exact raiseFault_raises _ _ e)

theorem setAccessMode_ends {mode : AccessMode} (h : accessModeOf e.regs.a = some mode) :
    Ends setAccessMode e 0 ()
      (setSession (fun x => { x with accessMode := mode, useDma := useDmaOf mode x.dmaCapable }) e) :=
  .get (by rw [h]; exact modifyEngine_ends _ e)

theorem setAccessMode_raises (h : accessModeOf e.regs.a = none) :
    Raises setAccessMode e 0 (faultedEngine .badOperand e.regs.a e) :=
  .get (by rw [h]; exact raiseFault_raises _ _ e)

theorem writeOptions_ends {o : Options} (h : optionsOf e.regs.a = some o) :
    Ends writeOptions e 0 () (setOptions o e) :=
  .get (by rw [h]; exact modifyEngine_ends _ e)

theorem writeOptions_raises (h : optionsOf e.regs.a = none) :
    Raises writeOptions e 0 (faultedEngine .badOperand e.regs.a e) :=
  .get (by rw [h]; exact raiseFault_raises _ _ e)

/-- Without a descriptor the block table stays as it is (40_tap.md R107). -/
theorem setWindow_ends_of_index_none (hb : ¬ 1#32 < e.regs.b) (hi : e.flash.index = none) :
    Ends setWindow e 0 () (moveWindow (if e.regs.b = 0#32 then some e.regs.a else none) e) := by
  refine .get ?_
  rw [if_neg hb, if_pos hi]
  exact (modifyEngine_ends _ e).before ((modifyEngine_ends rebase _).before (Ends.pure () _))

theorem setWindow_ends_of_index (hb : ¬ 1#32 < e.regs.b) (hi : e.flash.index ≠ none) :
    Ends setWindow e 0 ()
      (rebuildBlockTable (moveWindow (if e.regs.b = 0#32 then some e.regs.a else none) e)) := by
  refine .get ?_
  rw [if_neg hb, if_neg hi]
  exact (modifyEngine_ends _ e).before ((modifyEngine_ends rebase _).before (modifyEngine_ends _ _))

theorem setWindow_raises (hb : 1#32 < e.regs.b) : Raises setWindow e 0 (faultedEngine .badOperand e.regs.b e) :=
  .get (by rw [if_pos hb]; exact raiseFault_raises _ _ e)

end

/-! ## Operands and the window base -/

theorem windowBase_of_index_none {p : Params} {idcode : Word} {f : Flash} (ho : f.windowOverride = none)
    (hi : f.index = none) : windowBase p idcode f = p.flashProbeBase := by
  rw [windowBase, ho, hi]

theorem windowBase_of_index {p : Params} {idcode : Word} {f : Flash} (ho : f.windowOverride = none)
    (hi : f.index ≠ none) : windowBase p idcode f = flashWindowFor p idcode f.size := by
  obtain ⟨k, hk⟩ := Option.ne_none_iff_exists'.mp hi
  rw [windowBase, ho, hk]

theorem moveWindow_none_of_index_none {e : Engine} (hi : e.flash.index = none) :
    moveWindow none e
      = setFlash (fun f => { f with windowOverride := none, base := e.cfg.flashProbeBase }) e := by
  rw [← windowBase_of_index_none (p := e.cfg) (idcode := e.session.idcode)
    (f := { e.flash with windowOverride := none }) rfl hi]
  rfl

theorem moveWindow_none_of_index {e : Engine} (hi : e.flash.index ≠ none) :
    moveWindow none e = setFlash (fun f => { f with
      windowOverride := none
      base := flashWindowFor e.cfg e.session.idcode f.size }) e := by
  have base := windowBase_of_index (p := e.cfg) (idcode := e.session.idcode)
    (f := { e.flash with windowOverride := none }) rfl hi
  rw [setFlash, ← base]
  rfl

theorem legalIrLength_eq_false {n : Nat} (h : n = 0 ∨ 32 < n) : legalIrLength n = false := by
  have out : ¬(1 ≤ n ∧ n ≤ Config.irLengthMax) := by
    rw [Config.irLengthMax]
    omega
  exact decide_eq_false out

theorem accessModeOf_eq_none {a : Word} (h : 2#32 < a) : accessModeOf a = none := by
  have h0 : a ≠ 0#32 := by bv_omega
  have h1 : a ≠ 1#32 := by bv_omega
  have h2 : a ≠ 2#32 := by bv_omega
  rw [accessModeOf, if_neg h0, if_neg h1, if_neg h2]

/-- Bits 31:4 are 0 exactly below 16. -/
theorem extractLsb'_four_eq_zero_iff (a : Word) : a.extractLsb' 4 28 = 0#28 ↔ a.toNat < 16 := by
  rw [← BitVec.toNat_inj, BitVec.extractLsb'_toNat, Nat.shiftRight_eq_div_pow, BitVec.toNat_ofNat]
  omega

theorem optionsOf_of_lt {a : Word} (h : a.toNat < 16) :
    optionsOf a = some { bypass := a.getLsbD 0, st5 := a.getLsbD 1, swapEndian := a.getLsbD 2,
                         reboot := a.getLsbD 3 } :=
  if_pos ((extractLsb'_four_eq_zero_iff a).mpr h)

theorem optionsOf_eq_none {a : Word} (h : 16 ≤ a.toNat) : optionsOf a = none :=
  if_neg fun hz => absurd ((extractLsb'_four_eq_zero_iff a).mp hz) (Nat.not_lt.mpr h)

/-! ## The settings -/

section
variable {s : State}

theorem exec_cfgIrlen (h : accepting s) :
    (1 ≤ s.regs.a.toNat → s.regs.a.toNat ≤ 32 →
      exec .cfgIrlen s = .next { s with tap := { irCache := none, irLength := some s.regs.a.toNat } })
    ∧ (s.regs.a.toNat = 0 ∨ 32 < s.regs.a.toNat →
      exec .cfgIrlen s = .next { s with
        regs := { s.regs with result := s.regs.a }
        status := { s.status with faulted := true, faultCode := .badOperand } }) :=
  ⟨fun low high => runCommand_sets h (setIrLength_ends (decide_eq_true ⟨low, high⟩)),
    fun out => runCommand_rejects h (Ends.pure () _) (setIrLength_raises (legalIrLength_eq_false out))⟩

theorem exec_cfgAccess {mode : AccessMode} (h : accepting s) (hmode : accessModeOf s.regs.a = some mode) :
    exec .cfgAccess s = .next { s with
      session := { s.session with accessMode := mode, useDma := useDmaOf mode s.session.dmaCapable } } :=
  runCommand_sets h (setAccessMode_ends hmode)

/-- With the override the base is operand A (43_flash_probe.md R155). -/
theorem exec_cfgWindow_override (h : accepting s) (hb : s.regs.b = 0#32) :
    exec .cfgWindow s = .next { s with
      flash := { s.flash with
        windowOverride := some s.regs.a
        base := s.regs.a
        blockTable := if s.flash.index = none then s.flash.blockTable
          else blockTableOf s.cfg s.flash.index s.regs.a } } := by
  have small : ¬ 1#32 < s.regs.b := by rw [hb]; decide
  by_cases hi : s.flash.index = none
  · have moved := runCommand_sets (i := .cfgWindow) h (setWindow_ends_of_index_none small hi)
    rw [if_pos hb] at moved
    rw [if_pos hi]
    exact moved
  · have moved := runCommand_sets (i := .cfgWindow) h (setWindow_ends_of_index small hi)
    rw [if_pos hb] at moved
    rw [if_neg hi]
    exact moved

/-- Without the override the base is P_FLASH_PROBE_BASE while no flash is known. -/
theorem exec_cfgWindow_probeBase (h : accepting s) (hb : s.regs.b = 1#32) (hi : s.flash.index = none) :
    exec .cfgWindow s = .next { s with
      flash := { s.flash with windowOverride := none, base := s.cfg.flashProbeBase } } := by
  have moved := runCommand_sets (i := .cfgWindow) h (setWindow_ends_of_index_none (by rw [hb]; decide) hi)
  rw [if_neg (by rw [hb]; decide), moveWindow_none_of_index_none hi] at moved
  exact moved

/-- Without the override the base is the window of the flash known. -/
theorem exec_cfgWindow_flashWindow (h : accepting s) (hb : s.regs.b = 1#32) (hi : s.flash.index ≠ none) :
    exec .cfgWindow s = .next { s with
      flash := { s.flash with
        windowOverride := none
        base := flashWindowFor s.cfg s.session.idcode s.flash.size
        blockTable := blockTableOf s.cfg s.flash.index
          (flashWindowFor s.cfg s.session.idcode s.flash.size) } } := by
  have moved := runCommand_sets (i := .cfgWindow) h (setWindow_ends_of_index (by rw [hb]; decide) hi)
  rw [if_neg (by rw [hb]; decide), moveWindow_none_of_index hi] at moved
  exact moved

end

/-- Settles O25: each setting by the operand's range. -/
theorem sessionSettings : Obligations.SessionSettings := by
  intro s h
  have noCheck : Ends (checkClass .noClocks) s.toEngine 0 () s.toEngine := Ends.pure () _
  refine ⟨exec_cfgIrlen h, ⟨fun ha => ?_, fun ha => ?_, fun ha => ?_, fun ha => ?_⟩,
    ⟨exec_cfgWindow_override h, exec_cfgWindow_probeBase h, exec_cfgWindow_flashWindow h, fun hb => ?_⟩,
    fun ha => ?_, fun ha => ?_⟩
  · exact exec_cfgAccess h (by rw [ha]; rfl)
  · exact exec_cfgAccess h (by rw [ha]; rfl)
  · exact exec_cfgAccess h (by rw [ha]; rfl)
  · exact runCommand_rejects h noCheck (setAccessMode_raises (accessModeOf_eq_none ha))
  · exact runCommand_rejects h noCheck (setWindow_raises hb)
  · exact runCommand_sets h (writeOptions_ends (optionsOf_of_lt ha))
  · exact runCommand_rejects h noCheck (writeOptions_raises (optionsOf_eq_none ha))

end Sys2Proof.Machine
end

section
/-!
The commands of the TAP itself (40_tap.md R95-R101): TestReset, SetIR and RWData, each with the clocks of its sequence
written out; and FEATURES, which reads the implementation register (R105).
-/

namespace Sys2Proof.Machine

/-! ## The shadow does not reach the other fields -/

theorem clockPins_withShadow (k : CableClock) (c : Cable) (x : Option TapState) :
    (clockPins k { c with shadow := x }).2 = { (clockPins k c).2 with shadow := shadowNext x k.tms } := by
  obtain ⟨_, tdoIn, _, _⟩ := c
  cases tdoIn <;> rfl

/-- What a run of clocks does to the other fields does not depend on tap_shadow. -/
theorem driven_withShadow (ks : List CableClock) (c : Cable) (x : Option TapState) :
    driven ks { c with shadow := x }
      = { driven ks c with shadow := (driven ks { c with shadow := x }).shadow } := by
  induction ks generalizing c x with
  | nil => rfl
  | cons k ks ih => rw [driven_cons, clockPins_withShadow, ih, ← driven_cons]

/-- The cable whose TAP is known to be in Run-Test-Idle (40_tap.md R94). -/
def resynced (c : Cable) : Cable :=
  { c with shadow := some .runTestIdle }

/-- A run of clocks that leads from Run-Test-Idle back to it. -/
theorem driven_resynced {ks : List CableClock} {c : Cable}
    (h : (driven ks (resynced c)).shadow = some .runTestIdle) : driven ks (resynced c) = resynced (driven ks c) := by
  rw [resynced, driven_withShadow]
  exact congrArg (fun x => { driven ks c with shadow := x }) h

/-! ## TestReset (40_tap.md R94) -/

/-- The engine after TestReset, from any TAP state. -/
def afterTestReset (e : Engine) : Engine :=
  { e with
    cable := resynced (driven (resetSequence ++ resetExit) e.cable)
    tap := { e.tap with irCache := none } }

/-- The exit clock leads from Test-Logic-Reset to Run-Test-Idle. -/
theorem driven_resetExit (c : Cable) :
    driven resetExit { c with shadow := some .testLogicReset } = resynced (driven resetExit c) := by
  rw [driven_withShadow, driven_shadow]
  rfl

theorem testReset_ends (e : Engine) : Ends testReset e 6 () (afterTestReset e) := by
  have last : setTap (fun t => { t with irCache := none }) (setCable (driven resetExit)
      (setCable (fun c => { c with shadow := some .testLogicReset }) (setCable (driven resetSequence) e)))
        = afterTestReset e := by
    rw [afterTestReset, driven_append, ← driven_resetExit]
    rfl
  rw [← last]
  exact (driveClocks_ends resetSequence e).bind (m := 1) ((modifyEngine_ends _ _).before
    ((driveClocks_ends resetExit _).bind (m := 0) (modifyEngine_ends _ _)))

/-- A command that FAULTED does not hold back, or whose block is not FAULTED (60_exceptions.md R191). -/
theorem runCommand_allowed {i : Instr} {c : CommandClass} {body : Op Unit} {s : State} {n : Nat} {e : Engine}
    (hidle : s.running = none) (hi : s.status.faulted = false ∨ runsWhileFaulted i = true)
    (hc : Ends (checkClass c) s.toEngine 0 () s.toEngine) (hb : Ends body s.toEngine n () e)
    (hn : n ≤ clocksAllowed s) : runCommand i c body s = .next (ending e s) := by
  have allowed : (s.status.faulted && !runsWhileFaulted i) = false := by
    rcases hi with hi | hi <;> simp [hi]
  simp only [runCommand, startPoint_idle hidle, allowed, Bool.false_eq_true, if_false]
  rw [hc.before hb _ hn]
  rfl

/-- Settles O19: TestReset alone, which no check and no FAULTED holds back. -/
theorem tapReset : Obligations.TapReset :=
  fun s hidle hn => runCommand_allowed hidle (.inr rfl) (Ends.pure () s.toEngine) (testReset_ends s.toEngine) hn

/-! ## SetIR and RWData (40_tap.md R96-R101) -/

/-- A SetIR of the cached instruction does nothing. -/
theorem afterScript_select_cached {length : Nat} {code : Word} {e : Engine} (h : e.tap.irCache = some code) :
    afterScript length [.select code] e = e := by
  rw [afterScript]
  simp only [scriptClocks, scriptCache, if_pos h, List.append_nil, driven_nil]
  rw [← h]

theorem afterScript_select_new {length : Nat} {code : Word} {e : Engine} (h : e.tap.irCache ≠ some code) :
    afterScript length [.select code] e = { e with
      cable := driven (irSequence length code) e.cable
      tap := { e.tap with irCache := some code } } := by
  rw [afterScript]
  simp only [scriptClocks, scriptCache, if_neg h, List.append_nil]

theorem exec_tapSetir {length : Nat} {s : State} (h : ready length s) (hf : follows length [.select s.regs.a] s) :
    exec .tapSetir s = .next (ending (afterScript length [.select s.regs.a] s.toEngine) s) :=
  runCommand_does h (Does.get (setIR_does length _ _)) hf

theorem follows_select_cached {length : Nat} {code : Word} {s : State} (h : s.tap.irCache = some code) :
    follows length [.select code] s := by
  refine ⟨rfl, ?_⟩
  simp only [scriptClocks, if_pos h]
  exact Nat.zero_le _

/-- Settles O20: SetIR of operand A, by whether it is cached. -/
theorem tapSetir : Obligations.TapSetir := by
  refine fun length s h => ⟨fun hc => ?_, fun hc hn => ?_⟩
  · rw [exec_tapSetir h (follows_select_cached hc), afterScript_select_cached hc, ending_of_idle h.1.1]
  · rw [exec_tapSetir h (follows_select _ hn), afterScript_select_new hc]
    rfl

/-- Bit i of a captured word is the TDO bit of the i-th shift clock (30_encoding.md R75). -/
theorem replyAt_getLsbD (c : Cable) (n : Nat) {i : Nat} (hi : i < 32) :
    (replyAt c n).getLsbD i = tdoAt c (n + (3 + i)) := by
  have bits : ((((List.range 37).map fun j => tdoAt c (n + j)).drop 3).take 32).getD i false
      = tdoAt c (n + (3 + i)) := by
    simp [hi]
  rw [replyAt, capturedWord, BitVec.getLsbD_ofNat, natOfBits_testBit, bits]
  simp [hi]

theorem rwData_ends (v : Word) (e : Engine) :
    Ends (rwData v) e 37 (replyAt e.cable 0) (setCable (driven (drSequence v)) e) := by
  rw [← captured_drSequence v]
  exact (driveClocks_ends (drSequence v) e).bind (m := 0) (Ends.pure _ _)

/-- The clocks of RWData, written out (30_encoding.md R75). -/
theorem drSequence_eq (v : Word) : drSequence v = [⟨true, false⟩, ⟨false, false⟩, ⟨false, false⟩]
    ++ (List.range 32).map (fun i => ⟨decide (i = 31), v.getLsbD i⟩) ++ [⟨true, false⟩, ⟨false, false⟩] := by
  have shifts : shiftSequence 32 v = (List.range 32).map fun i => ⟨decide (i = 31), v.getLsbD i⟩ :=
    List.map_congr_left fun i _ => by simp
  rw [drSequence, shifts]

theorem runCommand_exchange {i : Instr} {body : Op Unit} {s : State} {e : Engine} (h : accepting s)
    (hs : s.cable.shadow = some .runTestIdle) (hn : 37 ≤ clocksAllowed s) (hb : Ends body s.toEngine 37 () e) :
    runCommand i .drOnly body s = .next (ending e s) :=
  runCommand_ends h (checkClass_drOnly hs) hb hn

/-- Settles O21: one RWData each, of operand A or of 0, with its word in RESULT or dropped. -/
theorem tapData : Obligations.TapData := by
  intro s h hs hn cableAfter hcable
  have after (v : Word) : setCable (driven (drSequence v)) s.toEngine
      = { s.toEngine with cable := cableAfter v } := by
    rw [hcable, ← drSequence_eq]
    rfl
  have swap (v : Word) := after v ▸ rwData_ends v s.toEngine
  refine ⟨replyAt s.cable 0, fun i hi => ?_, ?_, ?_, ?_⟩
  · rw [replyAt_getLsbD s.cable 0 hi, Nat.zero_add]
  · exact runCommand_exchange h hs hn (Ends.get ((swap _).bind (m := 0) (modifyEngine_ends _ _)))
  · exact runCommand_exchange h hs hn ((swap _).bind (m := 0) (modifyEngine_ends _ _))
  · exact runCommand_exchange h hs hn (Ends.get ((swap _).bind (m := 0) (Ends.pure () _)))

/-! ## FEATURES (40_tap.md R105) -/

/-- The engine that has recorded the implementation register (30_encoding.md R81, 41_memory_access.md R128). -/
def withImpcode (v : Word) (e : Engine) : Engine :=
  setSession (fun x => { x with
    impcode := v
    ejtagVersion := ejtagVersionOf e.cfg.imp v
    dmaCapable := dmaCapableOf e.cfg.imp v
    useDma := useDmaOf x.accessMode (dmaCapableOf e.cfg.imp v) }) e

/-- What FEATURES does with the word it reads. -/
theorem recordFeatures_does (length : Nat) (v : Word) (e : Engine) :
    Does (do modifyEngine (withImpcode v); writeResult v) length e [] () (setResult v (withImpcode v e)) :=
  Does.modify ⟨rfl, rfl⟩ (Does.last (setResult v) (withImpcode v e))

theorem queryFeatures_does (length : Nat) (v : Word) (e : Engine) :
    Does queryFeatures length e [.select e.cfg.ir.impcode, .swap 0#32 (exactly v)] ()
      (setResult v (withImpcode v (afterScript length [.select e.cfg.ir.impcode, .swap 0#32 (exactly v)] e))) := by
  have read (e' : Engine) := Does.step (f := fun v => do modifyEngine (withImpcode v); writeResult v)
    (rwData_exactly length 0#32 v e') (recordFeatures_does length v _)
  have both := Does.step (f := fun _ => do
    let v ← rwData 0#32
    modifyEngine (withImpcode v)
    writeResult v) (setIR_does length e.cfg.ir.impcode e) (read _)
  rw [← afterScript_append] at both
  exact Does.get both

/-- Settles O29: the word read at IMPCODE is recorded, and use_dma follows. -/
theorem features : Obligations.Features :=
  fun length _ v h hf => runCommand_does h (queryFeatures_does length v _) hf

end Sys2Proof.Machine
end

section
/-!
The lookups (40_tap.md R104, 43_flash_probe.md R152) and DETECT (R103): a ReadId and its clocks, ReadIds one after the
other, and the scan of the processor table.
-/

namespace Sys2Proof.Machine

/-! ## The lookups -/

/-- The index found is the least one of a match. -/
theorem findIdx?_eq_some_iff_getElem? {α : Type} {l : List α} {q : α → Bool} {k : Nat} :
    l.findIdx? q = some k
      ↔ (∃ d, l[k]? = some d ∧ q d = true) ∧ ∀ j d, j < k → l[j]? = some d → q d = false := by
  rw [List.findIdx?_eq_some_iff_getElem]
  constructor
  · rintro ⟨hk, hit, before⟩
    refine ⟨⟨l[k], List.getElem?_eq_getElem hk, hit⟩, fun j d hj hd => ?_⟩
    obtain ⟨_, rfl⟩ := List.getElem?_eq_some_iff.mp hd
    simpa using before j hj
  · rintro ⟨⟨d, hd, hit⟩, before⟩
    obtain ⟨hk, rfl⟩ := List.getElem?_eq_some_iff.mp hd
    refine ⟨hk, hit, fun j hj => ?_⟩
    simpa using before j _ hj (List.getElem?_eq_getElem (hj.trans hk))

/-- Settles O28: both lookups are a search for the first match. -/
theorem lookups : Obligations.Lookups := by
  refine fun p => ⟨fun id => ⟨fun k => ?_, ?_⟩, fun vendor device => ⟨fun k => ?_, ?_⟩⟩
  · simp only [procLookup, findIdx?_eq_some_iff_getElem?, decide_eq_true_eq, decide_eq_false_iff_not, ne_eq]
  · simp only [procLookup, List.findIdx?_eq_none_iff, decide_eq_false_iff_not, ne_eq]
  · simp only [flashLookup, findIdx?_eq_some_iff_getElem?, ← Bool.decide_and, decide_eq_true_eq,
      decide_eq_false_iff_not]
  · simp only [flashLookup, List.findIdx?_eq_none_iff, ← Bool.decide_and, decide_eq_false_iff_not]

/-! ## ReadId (40_tap.md R103) -/

/-- The engine with the TAP session that a ReadId at `length` leaves, and with a cable. -/
def withReadId (length : Nat) (c : Cable) (e : Engine) : Engine :=
  { e with cable := c, tap := { irCache := some e.cfg.ir.idcode, irLength := some length } }

/-- The engine after `ReadId(length)`, from any TAP state. -/
def afterReadId (length : Nat) (e : Engine) : Engine :=
  withReadId length (resynced (driven (readIdClocks e.cfg length) e.cable)) e

theorem resetClocks_length : (resetSequence ++ resetExit).length = 6 := rfl

theorem readIdClocks_length (p : Params) (length : Nat) : (readIdClocks p length).length = length + 49 := by
  rw [readIdClocks, List.length_append, List.length_append, resetClocks_length, irSequence_length, drSequence_length]
  omega

/-- What a ReadId selects and exchanges once its TestReset is done. -/
def readIdScript (p : Params) : List Exchange :=
  [.select p.ir.idcode, .swap 0#32 anyReply]

/-- The engine of a ReadId after its TestReset. -/
def readIdStart (length : Nat) (e : Engine) : Engine :=
  afterTestReset (setTap (fun t => { t with irLength := some length }) e)

theorem scriptClocks_readIdScript (p : Params) (length : Nat) :
    scriptClocks length none (readIdScript p) = irSequence length p.ir.idcode ++ drSequence 0#32 := by
  simp [readIdScript, scriptClocks]

/-- SetIR and RWData lead from Run-Test-Idle back to it. -/
theorem afterScript_readIdStart {length : Nat} (hl : 1 ≤ length) (e : Engine) :
    afterScript length (readIdScript e.cfg) (readIdStart length e) = afterReadId length e := by
  have back : ∀ c : Cable, driven (irSequence length e.cfg.ir.idcode ++ drSequence 0#32) (resynced c)
      = resynced (driven (irSequence length e.cfg.ir.idcode ++ drSequence 0#32) c) := by
    refine fun c => driven_resynced ?_
    rw [driven_append]
    exact driven_drSequence_shadow _ _ (driven_irSequence_shadow length _ _ hl rfl)
  have cable : driven (scriptClocks length none (readIdScript e.cfg)) (readIdStart length e).cable
      = resynced (driven (readIdClocks e.cfg length) e.cable) := by
    rw [scriptClocks_readIdScript, readIdClocks, List.append_assoc, driven_append (resetSequence ++ resetExit),
      ← back]
    rfl
  exact congrArg (withReadId length · e) cable

/-- The word read after a TestReset, at its distance from before it. -/
theorem replyAt_readIdStart (length : Nat) (e : Engine) :
    replyAt (afterScript length [.select e.cfg.ir.idcode] (readIdStart length e)).cable 0
      = readIdReply e.cable [] length := by
  rw [replyAt_afterSelect, if_neg (nomatch ·)]
  have start : replyAt (readIdStart length e).cable (length + 6)
      = replyAt (driven (resetSequence ++ resetExit) e.cable) (length + 6) := rfl
  rw [start, replyAt_driven, resetClocks_length, readIdReply, List.map_nil, List.sum_nil]
  congr 1
  omega

theorem readId_ends {length : Nat} (hl : 1 ≤ length) (e : Engine) :
    Ends (readId length) e (length + 49) (readIdReply e.cable [] length) (afterReadId length e) := by
  have exchange := Does.get (f := fun e => do setIR e.cfg.ir.idcode; rwData 0#32)
    (Does.step (setIR_does length e.cfg.ir.idcode (readIdStart length e)) (rwData_does length 0#32 anyReply _)) rfl rfl
  rw [← afterScript_append, replyAt_readIdStart] at exchange
  have clocks : length + 49 = 6 + (scriptClocks length none (readIdScript e.cfg)).length := by
    rw [scriptClocks_readIdScript, List.length_append, irSequence_length, drSequence_length]
    omega
  rw [← afterScript_readIdStart hl, clocks]
  exact (modifyEngine_ends _ e).before ((testReset_ends _).bind exchange)

/-! ## ReadIds one after the other -/

/-- The engine after ReadIds at `lengths`. -/
def afterReadIds (lengths : List Nat) (e : Engine) : Engine :=
  lengths.foldl (fun e length => afterReadId length e) e

theorem readIdReply_afterReadId (x : Nat) (e : Engine) (before : List Nat) (length : Nat) :
    readIdReply (afterReadId x e).cable before length = readIdReply e.cable (x :: before) length := by
  have same : readIdReply (afterReadId x e).cable before length
      = readIdReply (driven (readIdClocks e.cfg x) e.cable) before length := rfl
  rw [same, readIdReply, replyAt_driven, readIdClocks_length, readIdReply, List.map_cons, List.sum_cons,
    ← Nat.add_assoc (x + 49)]

theorem readIdReply_afterReadIds (lengths : List Nat) (e : Engine) (before : List Nat) (length : Nat) :
    readIdReply (afterReadIds lengths e).cable before length = readIdReply e.cable (lengths ++ before) length := by
  induction lengths generalizing e with
  | nil => rfl
  | cons x rest ih => exact (ih (afterReadId x e)).trans (readIdReply_afterReadId x e _ length)

@[simp] theorem afterReadIds_cfg (lengths : List Nat) (e : Engine) : (afterReadIds lengths e).cfg = e.cfg := by
  induction lengths generalizing e with
  | nil => rfl
  | cons x rest ih => exact ih (afterReadId x e)

theorem resynced_driven_resynced (ks : List CableClock) (c : Cable) :
    resynced (driven ks (resynced c)) = resynced (driven ks c) :=
  (congrArg resynced (driven_withShadow ks c (some .runTestIdle))).trans rfl

/-- The clocks of a run of ReadIds are driven in order, and the last one leaves the TAP session. -/
theorem afterReadIds_concat (lengths : List Nat) (length : Nat) (e : Engine) :
    afterReadIds (lengths ++ [length]) e = withReadId length
      (resynced (driven ((lengths ++ [length]).flatMap (readIdClocks e.cfg)) e.cable)) e := by
  induction lengths generalizing e with
  | nil =>
    rw [List.nil_append, List.flatMap_singleton]
    rfl
  | cons x rest ih =>
    have next := ih (afterReadId x e)
    have cable : resynced (driven ((rest ++ [length]).flatMap (readIdClocks e.cfg)) (afterReadId x e).cable)
        = resynced (driven ((x :: rest ++ [length]).flatMap (readIdClocks e.cfg)) e.cable) := by
      rw [List.cons_append, List.flatMap_cons, driven_append,
        ← resynced_driven_resynced _ (driven (readIdClocks e.cfg x) e.cable)]
      rfl
    exact next.trans (congrArg (withReadId length · e) cable)

/-! ## The scan (40_tap.md R103) -/

/-- The lengths of some entries of the processor table, in their order. -/
def entryLengths (table : List ProcDescriptor) : List Nat :=
  table.map fun d => tableIrLength d.irLength

theorem tableIrLength_pos (l : TableIrLength) : 1 ≤ tableIrLength l := by
  cases l <;> decide

/-- Entries whose own reads do not match are passed, with a read each. -/
theorem scanTable_passes {before rest : List ProcDescriptor} {k n : Nat} {e e' : Engine} {x : Word × Option Nat}
    (hno : ∀ j d, before[j]? = some d →
      readIdReply e.cable ((entryLengths before).take j) (tableIrLength d.irLength) ≠ d.idcode)
    (h : Ends (scanTable rest (k + before.length)) (afterReadIds (entryLengths before) e) n x e') :
    Ends (scanTable (before ++ rest) k) e (((entryLengths before).map (· + 49)).sum + n) x e' := by
  induction before generalizing k e with
  | nil =>
    change Ends (scanTable rest k) e (0 + n) x e'
    rw [Nat.zero_add]
    exact h
  | cons d before ih =>
    have miss : readIdReply e.cable [] (tableIrLength d.irLength) ≠ d.idcode := hno 0 d rfl
    have others := ih (k := k + 1) (e := afterReadId (tableIrLength d.irLength) e)
      (fun j x hx => by rw [readIdReply_afterReadId]; exact hno (j + 1) x hx)
      (by rw [Nat.add_assoc, Nat.add_comm 1]; exact h)
    rw [entryLengths, List.map_cons, List.map_cons, List.sum_cons, Nat.add_assoc]
    refine (readId_ends (tableIrLength_pos d.irLength) e).bind ?_
    rw [if_neg miss]
    exact others

/-- An entry whose own read matches ends the scan. -/
theorem scanTable_matches {d : ProcDescriptor} {rest : List ProcDescriptor} {k : Nat} {e : Engine}
    (h : readIdReply e.cable [] (tableIrLength d.irLength) = d.idcode) :
    Ends (scanTable (d :: rest) k) e (tableIrLength d.irLength + 49) (d.idcode, some k)
      (afterReadId (tableIrLength d.irLength) e) := by
  refine (readId_ends (tableIrLength_pos d.irLength) e).bind (m := 0) ?_
  rw [if_pos h, h]
  exact Ends.pure _ _

/-- Past the table the last read is made (40_tap.md R103). -/
theorem scanTable_ends {k : Nat} {e : Engine} (h : 1 ≤ e.cfg.irLengthUnknown) :
    Ends (scanTable [] k) e (e.cfg.irLengthUnknown + 49) (readIdReply e.cable [] e.cfg.irLengthUnknown, none)
      (afterReadId e.cfg.irLengthUnknown e) :=
  Ends.get ((readId_ends h e).bind (m := 0) (Ends.pure _ _))

/-! ## DETECT (40_tap.md R103) -/

theorem recordId_ends (lengths : List Nat) (length : Nat) (id : Word) (index : Option Nat) (e : Engine) :
    Ends (recordId id index) (afterReadIds (lengths ++ [length]) e) 0 ()
      (detected (lengths ++ [length]) length id index e) := by
  rw [afterReadIds_concat]
  exact (modifyEngine_ends _ _).before ((modifyEngine_ends _ _).before (modifyEngine_ends _ _))

theorem detectProcessor_raises {e : Engine} (h : 32 < e.regs.a.toNat) :
    Raises detectProcessor e 0 (faultedEngine .badOperand e.regs.a e) :=
  .get (by rw [if_pos (show Config.irLengthMax < e.regs.a.toNat from h)]; exact raiseFault_raises _ _ e)

/-- A length given by the host is read at once (40_tap.md R103). -/
theorem detectProcessor_override {e : Engine} (h1 : 1 ≤ e.regs.a.toNat) (h32 : e.regs.a.toNat ≤ 32) :
    Ends detectProcessor e (e.regs.a.toNat + 49) ()
      (detected [e.regs.a.toNat] e.regs.a.toNat (readIdReply e.cable [] e.regs.a.toNat)
        (procLookup e.cfg (readIdReply e.cable [] e.regs.a.toNat)) e) := by
  have nonzero : e.regs.a ≠ 0#32 := by
    intro hz
    rw [hz] at h1
    exact absurd h1 (by decide)
  have short : ¬ Config.irLengthMax < e.regs.a.toNat := Nat.not_lt.mpr h32
  refine .get ?_
  rw [if_neg short, if_pos nonzero]
  exact (readId_ends h1 e).bind (m := 0) (recordId_ends [] _ _ _ e)

/-- The engine a scan begins with (40_tap.md R103). -/
def unidentified (e : Engine) : Engine :=
  setSession (fun s => { s with procIndex := none }) e

/-- What a scan finds with its read at `length` is recorded. -/
theorem detectProcessor_scan {lengths : List Nat} {length n : Nat} {id : Word} {index : Option Nat} {e : Engine}
    (ha : e.regs.a = 0#32)
    (h : Ends (scanTable e.cfg.procTable 0) (unidentified e) n (id, index)
      (afterReadIds (lengths ++ [length]) (unidentified e))) :
    Ends detectProcessor e n () (detected (lengths ++ [length]) length id index e) := by
  refine .get ?_
  rw [ha, if_neg (by decide), if_neg (not_not.mpr rfl)]
  exact (modifyEngine_ends _ e).before (h.bind (m := 0) (recordId_ends lengths length id index _))

theorem readIds_concat_clocks (lengths : List Nat) (length : Nat) :
    ((lengths ++ [length]).map (· + 49)).sum = (lengths.map (· + 49)).sum + (length + 49) := by
  simp

theorem afterReadIds_append_singleton (lengths : List Nat) (length : Nat) (e : Engine) :
    afterReadIds (lengths ++ [length]) e = afterReadId length (afterReadIds lengths e) :=
  List.foldl_concat ..

/-- The scan ends at the first entry whose own read matches. -/
theorem scanTable_finds {before rest : List ProcDescriptor} {d : ProcDescriptor} {e : Engine}
    (hno : ∀ j x, before[j]? = some x →
      readIdReply e.cable ((entryLengths before).take j) (tableIrLength x.irLength) ≠ x.idcode)
    (hit : readIdReply e.cable (entryLengths before) (tableIrLength d.irLength) = d.idcode) :
    Ends (scanTable (before ++ d :: rest) 0) e
      (((entryLengths before ++ [tableIrLength d.irLength]).map (· + 49)).sum) (d.idcode, some before.length)
      (afterReadIds (entryLengths before ++ [tableIrLength d.irLength]) e) := by
  rw [readIds_concat_clocks, afterReadIds_append_singleton]
  refine scanTable_passes hno ?_
  rw [Nat.zero_add]
  refine scanTable_matches ?_
  rw [readIdReply_afterReadIds, List.append_nil]
  exact hit

/-- Where no entry's own read matches, the scan ends with the read past the table. -/
theorem scanTable_exhausts {table : List ProcDescriptor} {e : Engine} (hu : 1 ≤ e.cfg.irLengthUnknown)
    (hno : ∀ j x, table[j]? = some x →
      readIdReply e.cable ((entryLengths table).take j) (tableIrLength x.irLength) ≠ x.idcode) :
    Ends (scanTable table 0) e (((entryLengths table ++ [e.cfg.irLengthUnknown]).map (· + 49)).sum)
      (readIdReply e.cable (entryLengths table) e.cfg.irLengthUnknown, none)
      (afterReadIds (entryLengths table ++ [e.cfg.irLengthUnknown]) e) := by
  have last := scanTable_ends (k := 0 + table.length) (e := afterReadIds (entryLengths table) e)
    (by rw [afterReadIds_cfg]; exact hu)
  rw [afterReadIds_cfg, readIdReply_afterReadIds, List.append_nil, ← afterReadIds_append_singleton] at last
  have all := scanTable_passes hno last
  rw [List.append_nil, ← readIds_concat_clocks] at all
  exact all

/-- The scan of the whole table, when entry `k` is the first whose own read matches. -/
theorem scanTable_finds_at {p : Params} {k : Nat} {d : ProcDescriptor} {e : Engine} (hd : p.procTable[k]? = some d)
    (hno : ∀ j x, j < k → p.procTable[j]? = some x →
      readIdReply e.cable (((tableLengths p).take k).take j) (tableIrLength x.irLength) ≠ x.idcode)
    (hit : readIdReply e.cable ((tableLengths p).take k) (tableIrLength d.irLength) = d.idcode) :
    Ends (scanTable p.procTable 0) e ((((tableLengths p).take k ++ [tableIrLength d.irLength]).map (· + 49)).sum)
      (d.idcode, some k) (afterReadIds ((tableLengths p).take k ++ [tableIrLength d.irLength]) e) := by
  obtain ⟨hk, rfl⟩ := List.getElem?_eq_some_iff.mp hd
  have parts : p.procTable.take k ++ p.procTable[k] :: p.procTable.drop (k + 1) = p.procTable := by
    rw [← List.drop_eq_getElem_cons hk, List.take_append_drop]
  have lengths : entryLengths (p.procTable.take k) = (tableLengths p).take k := List.map_take ..
  have found := scanTable_finds (before := p.procTable.take k) (rest := p.procTable.drop (k + 1)) (e := e)
    (fun j x hx => by
      rw [List.getElem?_take, Option.ite_none_right_eq_some] at hx
      obtain ⟨hj, hx⟩ := hx
      exact lengths ▸ hno j x hj hx)
    (lengths ▸ hit)
  rw [parts, lengths, List.length_take_of_le hk.le] at found
  exact found

/-- Settles O27: an override reads once; a scan passes the entries that do not match, and ends at the first that does or
past the table. -/
theorem detect : Obligations.Detect := by
  intro s h
  have noCheck : Ends (checkClass .selfSynchronising) s.toEngine 0 () s.toEngine := Ends.pure () _
  refine ⟨fun big => ?_, fun low high hn id hid => ?_, fun ha k d before lengths hd hbefore hlengths hno hit hn => ?_,
    fun ha hu lengths hlengths hno hn => ?_⟩
  · exact runCommand_rejects h noCheck (detectProcessor_raises big)
  · subst hid
    exact runCommand_ends h noCheck (detectProcessor_override low high) hn
  · subst hlengths hbefore
    exact runCommand_ends h noCheck (detectProcessor_scan ha (scanTable_finds_at hd hno hit)) hn
  · subst hlengths
    exact runCommand_ends h noCheck (detectProcessor_scan ha (scanTable_exhausts hu hno)) hn

end Sys2Proof.Machine
end

section
/-!
The virtual register commands, PROC_RESET and PROC_HALT, and the DMA accesses (41_memory_access.md R114-R120, R126,
R127, R129, R130): attempts that fail one after the other, and then one that succeeds or the sixteenth that fails too.
-/

namespace Sys2Proof.Machine

/-! ## VREG_WRITE and VREG_READ (41_memory_access.md R126, R127) -/

section
variable {e : Engine}

theorem writeVreg_ends_address (ha : e.regs.a = 0#32) :
    Ends writeVreg e 0 () (setVregs (fun v => { v with address := e.regs.b }) e) :=
  .get (by rw [ha]; exact modifyEngine_ends _ e)

theorem writeVreg_ends_data (ha : e.regs.a = 1#32) :
    Ends writeVreg e 0 () (setVregs (fun v => { v with data := e.regs.b }) e) :=
  .get (by rw [ha]; exact modifyEngine_ends _ e)

theorem writeVreg_raises (ha : 1#32 < e.regs.a) : Raises writeVreg e 0 (faultedEngine .badOperand e.regs.a e) :=
  .get (by rw [if_pos ha]; exact raiseFault_raises _ _ e)

theorem readVreg_ends_address (ha : e.regs.a = 0#32) : Ends readVreg e 0 () (setResult e.vregs.address e) :=
  .get (by rw [ha]; exact modifyEngine_ends _ e)

theorem readVreg_ends_data (ha : e.regs.a = 1#32) : Ends readVreg e 0 () (setResult e.vregs.data e) :=
  .get (by rw [ha]; exact modifyEngine_ends _ e)

theorem readVreg_raises (ha : 1#32 < e.regs.a) : Raises readVreg e 0 (faultedEngine .badOperand e.regs.a e) :=
  .get (by rw [if_pos ha]; exact raiseFault_raises _ _ e)

end

/-- Settles O26: register 0, register 1, and an operand that names neither. -/
theorem virtualRegisters : Obligations.VirtualRegisters := by
  refine fun s h => ⟨fun ha => ?_, fun ha => ?_, fun ha => ?_⟩
  · exact ⟨runCommand_sets h (writeVreg_ends_address ha), runCommand_sets h (readVreg_ends_address ha)⟩
  · exact ⟨runCommand_sets h (writeVreg_ends_data ha), runCommand_sets h (readVreg_ends_data ha)⟩
  · simp only [List.forall_mem_cons, List.not_mem_nil, false_implies, implies_true, and_true]
    exact ⟨runCommand_rejects h (Ends.pure () _) (writeVreg_raises ha),
      runCommand_rejects h (Ends.pure () _) (readVreg_raises ha)⟩

/-! ## PROC_RESET and PROC_HALT (41_memory_access.md R129, R130) -/

theorem resetProcessor_does (length : Nat) (e : Engine) :
    Does resetProcessor length e
      [.select e.cfg.ir.control, .swap (ctlReset e.cfg.ctl) anyReply, .swap 0#32 anyReply] ()
      (afterScript length
        [.select e.cfg.ir.control, .swap (ctlReset e.cfg.ctl) anyReply, .swap 0#32 anyReply] e) := by
  refine Does.congr (Does.step (selectControl_does length e) (Does.get
    (Does.step (rwData_does length (ctlReset e.cfg.ctl) anyReply _)
      (Does.step (rwData_does length ctlZero anyReply _) (Does.done length () _))))) rfl ?_
  simp only [← afterScript_append]
  rfl

/-- What PROC_HALT does with the CONTROL value it reads. -/
theorem recordHalt_does (length : Nat) (b : Bool) (c : Word) (e : Engine) :
    Does (do setInDebug b; writeResult c) length e [] ()
      (setResult c (setStatus (fun st => { st with inDebug := b }) e)) :=
  Does.modify ⟨rfl, rfl⟩ (Does.last (setResult c) _)

theorem haltProcessor_does (length : Nat) (c : Word) (e : Engine) :
    Does haltProcessor length e
      [.select e.cfg.ir.control, .swap (ctlHalt e.cfg.ctl) anyReply, .swap (ctlPraccPoll e.cfg.ctl) (exactly c)] ()
      (setResult c (setStatus (fun st => { st with inDebug := c.getLsbD e.cfg.ctl.dm }) (afterScript length
        [.select e.cfg.ir.control, .swap (ctlHalt e.cfg.ctl) anyReply,
          .swap (ctlPraccPoll e.cfg.ctl) (exactly c)] e))) := by
  refine Does.congr (Does.step (selectControl_does length e) (Does.get
    (Does.step (rwData_does length (ctlHalt e.cfg.ctl) anyReply _)
      (Does.step (rwData_exactly length (ctlPraccPoll e.cfg.ctl) c _)
        (recordHalt_does length _ c _))))) rfl ?_
  simp only [← afterScript_append]
  rfl

/-- PROC_RESET's operation. -/
theorem resetAndLeaveDebug_does (length : Nat) (e : Engine) :
    Does (do resetProcessor; setInDebug false) length e
      [.select e.cfg.ir.control, .swap (ctlReset e.cfg.ctl) anyReply, .swap 0#32 anyReply] ()
      (setStatus (fun st => { st with inDebug := false }) (afterScript length
        [.select e.cfg.ir.control, .swap (ctlReset e.cfg.ctl) anyReply, .swap 0#32 anyReply] e)) :=
  Does.congr (Does.step (resetProcessor_does length e) (Does.last _ _)) (List.append_nil _) rfl

/-- Settles O30: each command is its CONTROL sequence, and then IN_DEBUG. -/
theorem resetAndHalt : Obligations.ResetAndHalt := by
  refine fun length s script h => ⟨?_, fun c => ?_⟩
  · rintro rfl hf
    exact runCommand_does h (resetAndLeaveDebug_does length s.toEngine) hf
  · rintro rfl hf
    exact runCommand_does h (haltProcessor_does length c s.toEngine) hf

/-! ## Attempts of a DMA access (41_memory_access.md R114, R115) -/

/-- In any engine, `attempt` is one attempt of the access, and its datum is `datum d` where the target's DATA word is
`d`. -/
def Attempts (attempt : Op (Word × Bool)) (length : Nat) (access : Access) (datum : Word → Word) : Prop :=
  ∀ (turns : Nat) (derr : Bool) (d : Word) (e : Engine), patient e.cfg turns →
    Does attempt length e (attemptScript e.cfg (skipsDstrtPoll e.cfg e.session) turns derr (access, d)) (datum d, derr)
      (afterScript length (attemptScript e.cfg (skipsDstrtPoll e.cfg e.session) turns derr (access, d)) e)

theorem dmaReadAttempt_attempts (length : Nat) (addr : Word) (width : Width) :
    Attempts (dmaReadAttempt addr width) length (.read width addr) id :=
  fun turns derr d e => dmaReadAttempt_does length turns derr addr d width e

theorem dmaWriteAttempt_attempts (length : Nat) (addr : Word) (width : Width) (v : Word) :
    Attempts (dmaWriteAttempt addr width v) length (.write width addr (busValue width v)) fun _ => 0#32 :=
  fun turns derr d e => dmaWriteAttempt_does length turns derr addr v d width e

theorem failingScript_append (e : Engine) (access : Access) (xs ys : List (Nat × Word)) :
    failingScript e access (xs ++ ys) = failingScript e access xs ++ failingScript e access ys :=
  List.flatMap_append

theorem failingScript_singleton (e : Engine) (access : Access) (x : Nat × Word) :
    failingScript e access [x]
      = attemptScript e.cfg (skipsDstrtPoll e.cfg e.session) x.1 true (access, x.2) :=
  List.append_nil _

section
variable {attempt : Op (Word × Bool)} {length : Nat} {access : Access} {datum : Word → Word}

/-- Attempts that fail are made again, as long as there are more. -/
theorem dmaAttempts_after_failures (h : Attempts attempt length access datum) {failed : List (Nat × Word)} {n : Nat}
    {q : List Exchange} {x : Word} {e e' : Engine} (hp : ∀ y ∈ failed, patient e.cfg y.1)
    (k : Does (dmaAttempts attempt (n + 1)) length (afterScript length (failingScript e access failed) e) q x e') :
    Does (dmaAttempts attempt (failed.length + (n + 1))) length e (failingScript e access failed ++ q) x e' := by
  induction failed generalizing e with
  | nil =>
    rw [List.length_nil, Nat.zero_add]
    exact k
  | cons y rest ih =>
    have split : failingScript e access (y :: rest) = failingScript e access [y] ++ failingScript e access rest :=
      failingScript_append e access [y] rest
    rw [split, afterScript_append] at k
    have again := ih (e := afterScript length (failingScript e access [y]) e)
      (fun z hz => hp z (List.mem_cons_of_mem _ hz)) k
    have first := h y.1 true y.2 e (hp y (List.mem_cons_self ..))
    rw [← failingScript_singleton] at first
    rw [split, List.append_assoc, show (y :: rest).length + (n + 1) = rest.length + (n + 1) + 1 by simp; omega]
    refine Does.step first ?_
    rw [if_pos rfl, if_neg (by omega)]
    exact again

/-- A DMA access that succeeds at an attempt it still has (R114). -/
theorem dmaAttempts_succeeds (h : Attempts attempt length access datum) {failed : List (Nat × Word)} {turns : Nat}
    {d : Word} {e : Engine} {script : List Exchange} (hn : failed.length < 16)
    (hf : ∀ y ∈ failed, patient e.cfg y.1) (hp : patient e.cfg turns)
    (hs : script = failingScript e access failed
      ++ attemptScript e.cfg (skipsDstrtPoll e.cfg e.session) turns false (access, d)) :
    Does (dmaAttempts attempt Config.dmaAttempts) length e script (datum d) (afterScript length script e) := by
  subst hs
  have last := dmaAttempts_first (15 - failed.length)
    (h turns false d (afterScript length (failingScript e access failed) e) hp)
  have all := dmaAttempts_after_failures h hf last
  have attempts : failed.length + (15 - failed.length + 1) = Config.dmaAttempts := by
    rw [Config.dmaAttempts]
    omega
  rw [attempts] at all
  exact all.congr rfl (afterScript_append ..).symm

/-- A DMA access whose sixteen attempts all fail is exhausted, and keeps the last datum (R115). -/
theorem dmaAttempts_exhausts (h : Attempts attempt length access datum) {ds : List (Nat × Word)} {last : Nat × Word}
    {e : Engine} (hn : ds.length = 16) (hl : ds.getLast? = some last) (hp : ∀ y ∈ ds, patient e.cfg y.1) :
    Does (dmaAttempts attempt Config.dmaAttempts) length e (failingScript e access ds) (datum last.2)
      (setStatus exhaustedStatus (afterScript length (failingScript e access ds) e)) := by
  obtain ⟨failed, rfl⟩ := List.getLast?_eq_some_iff.mp hl
  have h15 : failed.length = 15 := by simpa using hn
  have final := h last.1 true last.2 (afterScript length (failingScript e access failed) e) (hp last (by simp))
  have exhausted : Does (dmaAttempts attempt (0 + 1)) length (afterScript length (failingScript e access failed) e)
      (attemptScript e.cfg (skipsDstrtPoll e.cfg e.session) last.1 true (access, last.2) ++ []) (datum last.2)
      (setStatus exhaustedStatus (afterScript length
        (attemptScript e.cfg (skipsDstrtPoll e.cfg e.session) last.1 true (access, last.2))
        (afterScript length (failingScript e access failed) e))) := by
    refine Does.step final ?_
    rw [if_pos rfl, if_pos rfl]
    exact Does.modify ⟨rfl, rfl⟩ (Does.done length _ _)
  have all := dmaAttempts_after_failures h (fun y hy => hp y (List.mem_append_left _ hy)) exhausted
  rw [h15] at all
  refine all.congr ?_ ?_
  · rw [failingScript_append, failingScript_singleton, List.append_nil]
  · rw [failingScript_append, failingScript_singleton, afterScript_append]

end

/-- The count of failures saturates (R115). -/
theorem exhaustedStatus_eq (st : Status) : exhaustedStatus st = { st with
    dmaErr := true
    dmaFails := BitVec.ofNat 8 (min (st.dmaFails.toNat + 1) 0xFF) } := by
  have count : (if st.dmaFails = 0xFF#8 then 0xFF#8 else st.dmaFails + 1#8)
      = BitVec.ofNat 8 (min (st.dmaFails.toNat + 1) 0xFF) := by
    split
    next h => rw [h]; rfl
    next h =>
      have := st.dmaFails.isLt
      have small : st.dmaFails.toNat ≠ 255 := fun hc => h (BitVec.eq_of_toNat_eq hc)
      rw [Nat.min_eq_left (by omega)]
      exact BitVec.eq_of_toNat_eq (by simp)
  rw [exhaustedStatus, count]

/-! ## Accesses and the commands that make them -/

section
variable {length : Nat} {e e' : Engine} {script : List Exchange} {d addr v : Word} {width : Width}

/-- A DMA read returns its lane of the datum its attempts end with (R114, 20_memory.md R52). -/
theorem dmaRead_of_attempts
    (h : Does (dmaAttempts (dmaReadAttempt addr width) Config.dmaAttempts) length (recordAccess (.read width addr) e)
      script d e')
    (ht : Tracks length script (recordAccess (.read width addr) e) e') (hc : e'.cfg = e.cfg) :
    Does (dmaRead addr width) length e script (readDatum e.cfg width addr d) e' := by
  refine Does.modify ⟨rfl, rfl⟩ (Does.congr (h.bind ht (Does.get ?_)) (List.append_nil _) rfl)
  cases width with
  | word => exact Does.done length _ _
  | half =>
    rw [hc]
    exact Does.done length _ _

theorem dmaWrite_of_attempts
    (h : Does (dmaAttempts (dmaWriteAttempt addr width v) Config.dmaAttempts) length
      (recordAccess (.write width addr (busValue width v)) e) script d e')
    (ht : Tracks length script (recordAccess (.write width addr (busValue width v)) e) e') :
    Does (dmaWrite addr width v) length e script () e' :=
  Does.modify ⟨rfl, rfl⟩ (Does.congr (h.bind ht (Does.done length () _)) (List.append_nil _) rfl)

/-- MemRead under the DMA strategy (R109). -/
theorem memRead_does_dma (hd : e.session.useDma = true) (h : Does (dmaRead addr width) length e script d e') :
    Does (memRead addr width) length e script d e' :=
  Does.get (by rw [if_pos hd]; exact h)

theorem memWrite_does_dma (hd : e.session.useDma = true) (h : Does (dmaWrite addr width v) length e script () e') :
    Does (memWrite addr width v) length e script () e' :=
  Does.get (by rw [if_pos hd]; exact h)

/-- A read command puts the value its primitive reads at A in RESULT (R110, R117, R122). -/
theorem readCommand_does {primitive : Word → Width → Op Word}
    (h : Does (primitive e.regs.a width) length e script d e') (ht : Tracks length script e e') :
    Does (readCommand primitive width) length e script () (setResult d e') :=
  Does.get (Does.congr (h.bind ht (Does.last (setResult d) e')) (List.append_nil _) rfl)

theorem writeCommand_does {primitive : Word → Width → Word → Op Unit}
    (h : Does (primitive e.regs.a width e.regs.b) length e script () e') :
    Does (writeCommand primitive width) length e script () e' :=
  Does.get h

end

section
variable {length : Nat} {s : State} {failed : List (Nat × Word)} {turns : Nat} {d : Word} {width : Width}
  {script : List Exchange}

/-- A DMA read that succeeds, in a command that begins at `s`. -/
theorem dmaRead_succeeds (hn : failed.length < 16) (hfailed : ∀ x ∈ failed, patient s.cfg x.1)
    (hturns : patient s.cfg turns)
    (hs : script = failingScript s.toEngine (.read width s.regs.a) failed
      ++ attemptScript s.cfg (skipsDstrtPoll s.cfg s.session) turns false (.read width s.regs.a, d)) :
    Does (dmaRead s.regs.a width) length s.toEngine script (readDatum s.cfg width s.regs.a d)
      (afterScript length script (recordAccess (.read width s.regs.a) s.toEngine)) :=
  have attempts := dmaAttempts_succeeds (e := recordAccess (.read width s.regs.a) s.toEngine)
    (dmaReadAttempt_attempts length s.regs.a width) hn hfailed hturns hs
  dmaRead_of_attempts attempts (Tracks.afterScript ..) rfl

/-- A DMA write that succeeds, in a command that begins at `s`. -/
theorem dmaWrite_succeeds (hn : failed.length < 16) (hfailed : ∀ x ∈ failed, patient s.cfg x.1)
    (hturns : patient s.cfg turns)
    (hs : script = failingScript s.toEngine (.write width s.regs.a (busValue width s.regs.b)) failed
      ++ attemptScript s.cfg (skipsDstrtPoll s.cfg s.session) turns false
        (.write width s.regs.a (busValue width s.regs.b), d)) :
    Does (dmaWrite s.regs.a width s.regs.b) length s.toEngine script ()
      (afterScript length script
        (recordAccess (.write width s.regs.a (busValue width s.regs.b)) s.toEngine)) :=
  have attempts := dmaAttempts_succeeds
    (e := recordAccess (.write width s.regs.a (busValue width s.regs.b)) s.toEngine)
    (dmaWriteAttempt_attempts length s.regs.a width s.regs.b) hn hfailed hturns hs
  dmaWrite_of_attempts attempts (Tracks.afterScript ..)

/-- A DMA read that is exhausted (R115). -/
theorem dmaRead_exhausts {ds : List (Nat × Word)} {last : Nat × Word} (hn : ds.length = 16)
    (hl : ds.getLast? = some last) (hp : ∀ x ∈ ds, patient s.cfg x.1) :
    Does (dmaRead s.regs.a width) length s.toEngine (failingScript s.toEngine (.read width s.regs.a) ds)
      (readDatum s.cfg width s.regs.a last.2)
      (setStatus exhaustedStatus (afterScript length (failingScript s.toEngine (.read width s.regs.a) ds)
        (recordAccess (.read width s.regs.a) s.toEngine))) :=
  have attempts := dmaAttempts_exhausts (e := recordAccess (.read width s.regs.a) s.toEngine)
    (dmaReadAttempt_attempts length s.regs.a width) hn hl hp
  dmaRead_of_attempts attempts ⟨rfl, rfl⟩ rfl

/-- A DMA write that is exhausted (R115). -/
theorem dmaWrite_exhausts {ds : List (Nat × Word)} {last : Nat × Word} (hn : ds.length = 16)
    (hl : ds.getLast? = some last) (hp : ∀ x ∈ ds, patient s.cfg x.1) :
    Does (dmaWrite s.regs.a width s.regs.b) length s.toEngine
      (failingScript s.toEngine (.write width s.regs.a (busValue width s.regs.b)) ds) ()
      (setStatus exhaustedStatus (afterScript length
        (failingScript s.toEngine (.write width s.regs.a (busValue width s.regs.b)) ds)
        (recordAccess (.write width s.regs.a (busValue width s.regs.b)) s.toEngine))) :=
  have attempts := dmaAttempts_exhausts
    (e := recordAccess (.write width s.regs.a (busValue width s.regs.b)) s.toEngine)
    (dmaWriteAttempt_attempts length s.regs.a width s.regs.b) hn hl hp
  dmaWrite_of_attempts attempts ⟨rfl, rfl⟩

/-- A command that reads at A along a script. -/
theorem exec_readCommand {i : Instr} {primitive : Word → Width → Op Word} {e : Engine} (h : ready length s)
    (hexec : exec i s = runCommand i .irUsing (readCommand primitive width) s)
    (hb : Does (primitive s.regs.a width) length s.toEngine script d e) (ht : Tracks length script s.toEngine e)
    (hf : follows length script s) : exec i s = .next (ending (setResult d e) s) :=
  hexec.trans (runCommand_does h (readCommand_does hb ht) hf)

/-- A command that writes B at A along a script. -/
theorem exec_writeCommand {i : Instr} {primitive : Word → Width → Word → Op Unit} {e : Engine}
    (h : ready length s) (hexec : exec i s = runCommand i .irUsing (writeCommand primitive width) s)
    (hb : Does (primitive s.regs.a width s.regs.b) length s.toEngine script () e)
    (hf : follows length script s) : exec i s = .next (ending e s) :=
  hexec.trans (runCommand_does h (writeCommand_does hb) hf)

end

/-! The settled statements, in a namespace of their own: the operations already have these names. -/

namespace MemoryAccess

/-- Settles O31: the attempts that fail, the one that succeeds, and its datum in RESULT. -/
theorem dmaRead : Obligations.DmaRead := by
  intro length s failed turns d width script h hn hfailed hturns hs hf
  have read := dmaRead_succeeds (length := length) hn hfailed hturns hs
  rintro i (rfl | ⟨hd, rfl⟩)
  · cases width <;> exact exec_readCommand h rfl read ⟨rfl, rfl⟩ hf
  · cases width <;> exact exec_readCommand h rfl (memRead_does_dma hd read) ⟨rfl, rfl⟩ hf

/-- Settles O32: the attempts that fail, and the one that succeeds. -/
theorem dmaWrite : Obligations.DmaWrite := by
  intro length s failed turns d v width script h hn hfailed hturns hv hs hf
  obtain rfl : v = busValue width s.regs.b := by cases width <;> exact hv
  have write := dmaWrite_succeeds (length := length) hn hfailed hturns hs
  rintro i (rfl | ⟨hd, rfl⟩)
  · cases width <;> exact exec_writeCommand h rfl write hf
  · cases width <;> exact exec_writeCommand h rfl (memWrite_does_dma hd write) hf

/-- Settles O33: an exhausted access ends like one that succeeds, but for the record of the failure. -/
theorem dmaExhausted : Obligations.DmaExhausted := by
  intro length s ds last st h hn hl hp hst
  rw [← exhaustedStatus_eq] at hst
  subst hst
  refine ⟨fun width hf => ?_, fun width hf => ?_⟩
  · have read := dmaRead_exhausts (length := length) (width := width) hn hl hp
    cases width <;> exact exec_readCommand h rfl read ⟨rfl, rfl⟩ hf
  · have write := dmaWrite_exhausts (length := length) (width := width) hn hl hp
    cases width <;> exact exec_writeCommand h rfl write hf

end MemoryAccess

end Sys2Proof.Machine
end

section
/-!
The debug module executor along a run of target accesses (42_debug_executor.md R134-R141): a pending access after its
polls, the answer to a fetch, the store of a word, and the loop that serves them until the target is back at the vector.
-/

namespace Sys2Proof.Machine

/-! ## Selecting the instruction that is selected (40_tap.md R96) -/

section
variable {length : Nat} {code : Word} {cache : Option Word} {p q : List Exchange}

theorem scriptClocks_reselect (h : scriptCache cache p = some code) :
    scriptClocks length cache (p ++ Exchange.select code :: q) = scriptClocks length cache (p ++ q) := by
  simp only [scriptClocks_append, scriptClocks, h, if_true, List.nil_append]

theorem scriptCache_reselect (h : scriptCache cache p = some code) :
    scriptCache cache (p ++ Exchange.select code :: q) = scriptCache cache (p ++ q) := by
  simp only [scriptCache_append, scriptCache, h]

theorem answered_reselect (h : scriptCache cache p = some code) (c : Cable) (n : Nat) :
    answered length c n cache (p ++ Exchange.select code :: q) = answered length c n cache (p ++ q) := by
  simp only [answered_append, answered, h, if_true]

theorem afterScript_reselect {e : Engine} (h : scriptCache e.tap.irCache p = some code) :
    afterScript length (p ++ Exchange.select code :: q) e = afterScript length (p ++ q) e := by
  simp only [afterScript, scriptClocks_reselect h, scriptCache_reselect h]

/-- A script may name again the instruction it has selected. -/
theorem Does.reselect {α : Type} {op : Op α} {e e' : Engine} {x : α} (h : scriptCache e.tap.irCache p = some code)
    (k : Does op length e (p ++ q) x e') : Does op length e (p ++ Exchange.select code :: q) x e' := by
  intro hl ha
  rw [answered_reselect h] at ha
  rw [scriptClocks_reselect h]
  exact k hl ha

end

theorem scriptCache_replicate_swap (cache : Option Word) (v : Word) (wanted : Word → Bool) (n : Nat) :
    scriptCache cache (List.replicate n (Exchange.swap v wanted)) = cache := by
  induction n with
  | zero => rfl
  | succ n ih => exact ih

theorem scriptClocks_replicate_swap_length (length : Nat) (cache : Option Word) (v : Word) (wanted : Word → Bool)
    (n : Nat) : (scriptClocks length cache (List.replicate n (Exchange.swap v wanted))).length = 37 * n := by
  induction n with
  | zero => rfl
  | succ n ih =>
    rw [List.replicate_succ, scriptClocks, List.length_append, drSequence_length, ih]
    omega

/-- An RWData takes its clocks wherever it stands in a script. -/
theorem scriptClocks_length_pos {length : Nat} {v : Word} {wanted : Word → Bool} {script : List Exchange}
    (h : Exchange.swap v wanted ∈ script) (cache : Option Word) :
    1 ≤ (scriptClocks length cache script).length := by
  induction script generalizing cache with
  | nil => cases h
  | cons x rest ih =>
    cases x with
    | swap out w =>
      rw [scriptClocks, List.length_append, drSequence_length]
      omega
    | select code =>
      have := ih (by simpa using h) (some code)
      rw [scriptClocks, List.length_append]
      omega

/-! ## A pending access (42_debug_executor.md R135) -/

/-- The polls of WaitPending, the last of which captures `c`. -/
def pollsScript (p : Params) (waits : Nat) (c : Word) : List Exchange :=
  List.replicate waits (Exchange.swap (ctlPraccPoll p.ctl) (bitIs p.ctl.pracc false))
    ++ [Exchange.swap (ctlPraccPoll p.ctl) (exactly c)]

section
variable {length : Nat} {e : Engine}

/-- A poll that ends with a given word. -/
theorem pollUntil_exactly {v site c : Word} {ready busy : Word → Bool} (h0 : ∀ w, busy w = true → ready w = false)
    (hc : ready c = true) {turns : Nat} (hp : patient e.cfg turns) :
    Does (pollUntil site (rwData v) ready) length e
      (List.replicate turns (Exchange.swap v busy) ++ [Exchange.swap v (exactly c)]) c
      (afterScript length (List.replicate turns (Exchange.swap v busy) ++ [Exchange.swap v (exactly c)]) e) := by
  refine Does.assuming fun ha => ?_
  have reply : replyAt e.cable (37 * turns) = c := by
    have := wanted_after _ ha
    rw [afterScript_cable, replyAt_driven, scriptClocks_replicate_swap_length] at this
    simpa [exactly] using this
  refine Does.value reply (pollUntil_rwData h0 (fun w hw => ?_) turns hp)
  have : w = c := by simpa [exactly] using hw
  rw [this, hc]

theorem waitPending_does {c : Word} {waits : Nat} (hc : c.getLsbD e.cfg.ctl.pracc = true) (hp : patient e.cfg waits) :
    Does waitPending length e (pollsScript e.cfg waits c) c (afterScript length (pollsScript e.cfg waits c) e) :=
  Does.get (pollUntil_exactly (fun w hw => by simpa [bitIs] using hw) hc hp)

/-- The polls and the CONTROL value and address they end with, before what is done with these. -/
theorem pending_does {α : Type} {f : Word → Word → Op α} {c a : Word} {waits : Nat} {q : List Exchange} {y : α}
    {e' : Engine} (hc : c.getLsbD e.cfg.ctl.pracc = true) (hp : patient e.cfg waits)
    (k : Does (f c a) length (afterScript length (waitingScript e.cfg waits ++ pendingScript e.cfg c a) e) q y e') :
    Does (do
      selectControl
      let c ← waitPending
      selectAddress
      let a ← rwData 0#32
      f c a) length e (waitingScript e.cfg waits ++ pendingScript e.cfg c a ++ q) y e' := by
  have selected : scriptCache e.tap.irCache (waitingScript e.cfg waits) = some e.cfg.ir.control :=
    scriptCache_replicate_swap ..
  rw [pendingScript, afterScript_reselect selected] at k
  rw [pendingScript, List.append_assoc, List.cons_append]
  refine Does.reselect selected ?_
  refine Does.congr (Does.step (selectControl_does length e)
    (Does.step (waitPending_does (c := c) (waits := waits) hc hp)
      (Does.step (selectAddress_does length _)
        (Does.step (rwData_exactly length 0#32 a _) (q := q) ?_)))) (by simp [waitingScript, pollsScript]) rfl
  simp only [← afterScript_append]
  simpa [waitingScript, pollsScript] using k

end

/-! ## Serving an access (42_debug_executor.md R137-R141) -/

/-- A word is supplied to a pending read (R141). -/
def supplyScript (p : Params) (d : Word) : List Exchange :=
  [Exchange.select p.ir.data, Exchange.swap d anyReply] ++ completeScript p

/-- The word `d` of a pending write is taken (R137). -/
def takeScript (p : Params) (d : Word) : List Exchange :=
  [Exchange.select p.ir.data, Exchange.swap 0#32 (exactly d)] ++ completeScript p

/-- A fetch on the wire: it becomes pending, and its answer is supplied. -/
theorem serviceScript_fetch {p : Params} {words : List Word} {v : VirtualRegs} {a d : Word}
    (h : readAnswer p words v a = some d) (waits : Nat) (c : Word) :
    serviceScript p words v (.fetch waits c a) = waitingScript p waits ++ pendingScript p c a ++ supplyScript p d := by
  simp only [serviceScript, fetchScript, supplyScript, h, Option.getD_some, List.append_assoc]

/-- A store on the wire: it becomes pending, and its word is taken. -/
theorem serviceScript_store (p : Params) (words : List Word) (v : VirtualRegs) (waits : Nat) (c a d : Word) :
    serviceScript p words v (.store waits c a d)
      = waitingScript p waits ++ pendingScript p c a ++ takeScript p d := by
  simp only [serviceScript, storeScript, takeScript, List.append_assoc]

/-- The offset of a module word that a read at `a` is answered with; none below the vector (R139). -/
def readOffset (p : Params) (a : Word) : Option Nat :=
  if p.debugVector ≤ a then some (moduleOffset p a) else none

/-- The access is the read that ends a run at vector re-entry (R138). -/
def Reenters (p : Params) (term : Termination) (v : VirtualRegs) : Service → Prop
  | .fetch _ _ a => a = p.debugVector ∧ v.vectorReads + 1 = 2 ∧ term = .vectorReentry
  | .store _ _ _ _ => False

/-- The access is the read that ends a run on its last word (R134, R138). -/
def suppliesLast (p : Params) (words : List Word) (term : Termination) : Service → Bool
  | .fetch _ _ a => decide (term = .lastWord) && decide (readOffset p a = some (words.length - 1))
  | .store _ _ _ _ => false

/-- The engine after an access is served. -/
def afterService (length : Nat) (words : List Word) (x : Service) (e : Engine) : Engine :=
  setVregs (fun v => serviceRegs e.cfg words v x) (afterScript length (serviceScript e.cfg words e.vregs x) e)

theorem moduleOffset_eq {p : Params} {a : Word} (h : p.debugVector ≤ a) :
    moduleOffset p a = (a.toNat - p.debugVector.toNat) / 4 := by
  rw [moduleOffset, BitVec.toNat_ushiftRight, BitVec.toNat_sub_of_le h, Nat.shiftRight_eq_div_pow]

/-- What a store leaves in the virtual registers (R137). -/
theorem storeVirtual_eq (p : Params) (words : List Word) (waits : Nat) (c a d : Word) (v : VirtualRegs) :
    storeVirtual p a d { v with execData := d } = serviceRegs p words v (.store waits c a d) := by
  simp only [storeVirtual, serviceRegs]
  by_cases h1 : a = p.vregAddr
  · simp [h1]
  · simp only [h1, ne_eq, not_false_eq_true, true_and, if_false]
    split <;> rfl

section
variable {length : Nat} {e : Engine} {words : List Word} {term : Termination} {c a d : Word}

theorem afterScript_setVregs (length : Nat) (f : VirtualRegs → VirtualRegs) (p : List Exchange) (e : Engine) :
    afterScript length p (setVregs f e) = setVregs f (afterScript length p e) := rfl

theorem Tracks.setVregs (length : Nat) (f : VirtualRegs → VirtualRegs) (p : List Exchange) (e : Engine) :
    Tracks length p e (Machine.setVregs f (Machine.afterScript length p e)) :=
  ⟨rfl, rfl⟩

theorem completeAccess_does (length : Nat) (e : Engine) :
    Does completeAccess length e (completeScript e.cfg) () (afterScript length (completeScript e.cfg) e) := by
  refine Does.congr (Does.step (selectControl_does length e) (Does.get
    (Does.step (rwData_does length (ctlPraccDone e.cfg.ctl) anyReply _) (Does.done length () _)))) rfl ?_
  rw [← afterScript_append]
  rfl

theorem supply_does (length : Nat) (d : Word) (e : Engine) :
    Does (supply d) length e (supplyScript e.cfg d) ()
      (setVregs (fun v => { v with execData := d }) (afterScript length (supplyScript e.cfg d) e)) := by
  have clear (e : Engine) : Does (do modifyEngine (setVregs fun v => { v with execData := d }); completeAccess) length e
      (completeScript e.cfg) ()
      (setVregs (fun v => { v with execData := d }) (afterScript length (completeScript e.cfg) e)) :=
    Does.modify ⟨rfl, rfl⟩ (completeAccess_does length _)
  refine Does.congr (Does.step (selectData_does length e) (Does.step (rwData_does length d anyReply _) (clear _))) ?_ ?_
  · simp only [supplyScript, afterScript_cfg, List.cons_append, List.nil_append]
  · simp only [supplyScript, ← afterScript_append, afterScript_cfg, List.cons_append, List.nil_append]

theorem readValue_ends (h : readAnswer e.cfg words e.vregs a = some d) :
    Ends (readValue words a) e 0 (d, readOffset e.cfg a) e := by
  refine Ends.get ?_
  rw [readAnswer] at h
  rw [readOffset]
  split_ifs at h ⊢ with above address data
  · rw [moduleOffset_eq above, h]
    exact Ends.pure _ _
  all_goals
    cases h
    exact Ends.pure _ _

theorem serveRead_does (waits : Nat) (h : readAnswer e.cfg words e.vregs a = some d) :
    Does (serveRead words term a) length e (supplyScript e.cfg d) (suppliesLast e.cfg words term (.fetch waits c a))
      (setVregs (fun v => { v with execData := d }) (afterScript length (supplyScript e.cfg d) e)) := by
  refine Does.after (readValue_ends h) ⟨rfl, rfl⟩ (Does.congr ?_ (List.append_nil _) rfl)
  exact (supply_does length d e).bind (Tracks.setVregs ..) (Does.done length _ _)

/-- A fetch that does not end the run at vector re-entry: its vector read is counted, and its answer supplied. -/
theorem serveAccess_fetch (waits : Nat) (hr : c.getLsbD e.cfg.ctl.prnw = false)
    (h : readAnswer e.cfg words e.vregs a = some d) (hx : ¬ Reenters e.cfg term e.vregs (.fetch waits c a)) :
    Does (serveAccess words term c a) length e (supplyScript e.cfg d)
      (suppliesLast e.cfg words term (.fetch waits c a))
      (setVregs (fun v => serviceRegs e.cfg words v (.fetch waits c a))
        (afterScript length (supplyScript e.cfg d) e)) := by
  refine Does.get ?_
  rw [hr, if_neg Bool.false_ne_true]
  by_cases vector : a = e.cfg.debugVector
  · have go : ¬ (e.vregs.vectorReads + 1 = 2 ∧ term = .vectorReentry) := fun hc => hx ⟨vector, hc⟩
    rw [if_pos vector]
    refine Does.modify ⟨rfl, rfl⟩ ?_
    rw [if_neg go]
    refine (serveRead_does (e := setVregs (fun v => { v with vectorReads := v.vectorReads + 1 }) e) waits h).congr rfl
      ?_
    simp only [serviceRegs, setVregs, afterScript_vregs, h, if_pos vector, Option.getD_some]
    rfl
  · rw [if_neg vector]
    refine (serveRead_does waits h).congr rfl ?_
    simp only [serviceRegs, setVregs, afterScript_vregs, h, if_neg vector, Option.getD_some]

/-- A store: the word is taken, the access cleared, and a virtual register keeps the word (R137). -/
theorem serveWrite_does (waits : Nat) :
    Does (serveWrite a) length e (takeScript e.cfg d) ()
      (setVregs (fun v => serviceRegs e.cfg words v (.store waits c a d))
        (afterScript length (takeScript e.cfg d) e)) := by
  have keep (e : Engine) : Does (do
      modifyEngine (setVregs fun v => { v with execData := d })
      completeAccess
      modifyEngine fun e => setVregs (storeVirtual e.cfg a d) e) length e (completeScript e.cfg) ()
      (setVregs (fun v => serviceRegs e.cfg words v (.store waits c a d))
        (afterScript length (completeScript e.cfg) e)) := by
    refine Does.modify ⟨rfl, rfl⟩ (Does.congr (Does.step (completeAccess_does length _) (Does.last _ _))
      (List.append_nil _) ?_)
    simp only [← storeVirtual_eq]
    rfl
  refine Does.congr (Does.step (selectData_does length e) (Does.step (rwData_exactly length 0#32 d _) (keep _))) ?_ ?_
  · simp only [takeScript, afterScript_cfg, List.cons_append, List.nil_append]
  · simp only [takeScript, ← afterScript_append, afterScript_cfg, List.cons_append, List.nil_append]

theorem serveAccess_store (waits : Nat) (hw : c.getLsbD e.cfg.ctl.prnw = true) :
    Does (serveAccess words term c a) length e (takeScript e.cfg d) false
      (setVregs (fun v => serviceRegs e.cfg words v (.store waits c a d))
        (afterScript length (takeScript e.cfg d) e)) := by
  refine Does.get ?_
  rw [hw, if_pos rfl]
  exact ((serveWrite_does waits).bind (Tracks.setVregs ..) (Does.done length false _)).congr (List.append_nil _) rfl

end

/-! ## The loop (42_debug_executor.md R134) -/

/-- One turn of the executor's loop: the address of the access it serves, and whether that ends the run. -/
def serviceTurn (words : List Word) (term : Termination) : Op (Word × Bool) := do
  selectControl
  let c ← waitPending
  selectAddress
  let a ← rwData 0#32
  let finished ← serveAccess words term c a
  pure (a, finished)

theorem serviceLoop_succ (words : List Word) (term : Termination) (turns serviced : Nat) :
    serviceLoop words term (turns + 1) serviced = (do
      let x ← serviceTurn words term
      if x.2 then pure ()
      else do
        checkTimeout (serviced + 1) x.1
        serviceLoop words term turns (serviced + 1)) := by
  simp only [serviceLoop, serviceTurn, bind_assoc, pure_bind]

/-- No access of a run ends it. -/
def StaysIn (p : Params) (words : List Word) (term : Termination) : VirtualRegs → List Service → Prop
  | _, [] => True
  | v, x :: rest => (¬ Reenters p term v x ∧ suppliesLast p words term x = false)
      ∧ StaysIn p words term (serviceRegs p words v x) rest

/-- The engine after a run of accesses is served. -/
def afterRun (length : Nat) (words : List Word) (run : List Service) (e : Engine) : Engine :=
  setVregs (fun v => runRegs e.cfg words v run) (afterScript length (runScript e.cfg words e.vregs run) e)

theorem afterRun_cons (length : Nat) (words : List Word) (x : Service) (rest : List Service) (e : Engine) :
    afterRun length words (x :: rest) e = afterRun length words rest (afterService length words x e) := by
  simp only [afterRun, afterService, runScript, runRegs, afterScript_append, afterScript_setVregs]
  rfl

section
variable {length : Nat} {e : Engine} {words : List Word} {term : Termination} {waits : Nat}

/-- An access that does not end the run at vector re-entry is served, and may be of its last word. -/
theorem serviceTurn_does {x : Service} (hl : serviceLegal e.cfg words e.vregs x)
    (hx : ¬ Reenters e.cfg term e.vregs x) :
    Does (serviceTurn words term) length e (serviceScript e.cfg words e.vregs x)
      (serviceAddress x, suppliesLast e.cfg words term x) (afterService length words x e) := by
  cases x with
  | fetch waits c a =>
    obtain ⟨hp, ⟨hpracc, hprnw⟩, hanswer⟩ := hl
    obtain ⟨d, hd⟩ := Option.ne_none_iff_exists'.mp hanswer
    have served := serveAccess_fetch (length := length) (term := term) (c := c) (d := d) waits
      (e := afterScript length (waitingScript e.cfg waits ++ pendingScript e.cfg c a) e) hprnw hd hx
    refine Does.congr (pending_does hpracc hp
      (served.bind (Tracks.setVregs ..) (Does.done length _ _))) ?_ ?_
    · rw [serviceScript_fetch hd, List.append_nil, afterScript_cfg]
    · simp only [afterService, serviceScript_fetch hd, afterScript_append, afterScript_cfg]
  | store waits c a d =>
    obtain ⟨hp, hpracc, hprnw⟩ := hl
    have served := serveAccess_store (length := length) (words := words) (term := term) (a := a) (d := d) waits
      (e := afterScript length (waitingScript e.cfg waits ++ pendingScript e.cfg c a) e) hprnw
    refine Does.congr (pending_does hpracc hp
      (served.bind (Tracks.setVregs ..) (Does.done length _ _))) ?_ ?_
    · rw [serviceScript_store, List.append_nil, afterScript_cfg]
    · simp only [afterService, serviceScript_store, afterScript_append, afterScript_cfg]

/-- The loop serves a run whose accesses do not end it, and goes on. -/
theorem serviceLoop_does_run {run : List Service} {turns serviced : Nat} {q : List Exchange} {e' : Engine}
    (hl : runLegal e.cfg words e.vregs run) (hx : StaysIn e.cfg words term e.vregs run)
    (hp : patient e.cfg (serviced + run.length))
    (k : Does (serviceLoop words term turns (serviced + run.length)) length (afterRun length words run e) q () e') :
    Does (serviceLoop words term (run.length + turns) serviced) length e (runScript e.cfg words e.vregs run ++ q) ()
      e' := by
  induction run generalizing serviced e with
  | nil =>
    rw [List.length_nil, Nat.zero_add]
    exact k
  | cons x rest ih =>
    obtain ⟨hx, hrest⟩ := hx
    rw [List.length_cons, Nat.add_right_comm, serviceLoop_succ, runScript, List.append_assoc]
    refine (serviceTurn_does hl.1 hx.1).bind (Tracks.setVregs ..) ?_
    rw [hx.2, if_neg Bool.false_ne_true]
    rw [List.length_cons] at hp k
    rw [afterRun_cons, ← Nat.add_assoc, Nat.add_right_comm] at k
    refine Does.after (checkTimeout_ends fun bound hb => ?_) ⟨rfl, rfl⟩
      (ih hl.2 hrest (by rwa [Nat.add_right_comm, Nat.add_assoc]) k)
    exact Nat.lt_of_le_of_lt (by omega) (hp bound hb)

/-- Every access of a run takes clocks. -/
theorem length_le_runScript_clocks (length : Nat) (p : Params) (words : List Word) (v : VirtualRegs)
    (run : List Service) (cache : Option Word) :
    run.length ≤ (scriptClocks length cache (runScript p words v run)).length := by
  induction run generalizing v cache with
  | nil => exact Nat.zero_le _
  | cons x rest ih =>
    have address : Exchange.swap 0#32 (exactly (serviceAddress x)) ∈ serviceScript p words v x := by
      cases x <;> simp [serviceScript, fetchScript, storeScript, pendingScript, serviceAddress]
    have here := scriptClocks_length_pos (length := length) address cache
    have later := ih (serviceRegs p words v x) (scriptCache cache (serviceScript p words v x))
    rw [runScript, scriptClocks_append, List.length_append, List.length_cons]
    omega

/-- The budget has a turn for every access of a run and one more. -/
theorem serviceAccesses_does_run {run : List Service} {q : List Exchange} {e' : Engine}
    (hl : runLegal e.cfg words e.vregs run) (hx : StaysIn e.cfg words term e.vregs run)
    (hp : patient e.cfg run.length)
    (k : ∀ turns, Does (serviceLoop words term (turns + 1) run.length) length (afterRun length words run e) q () e') :
    Does (serviceAccesses words term) length e (runScript e.cfg words e.vregs run ++ q) () e' := by
  intro htap ha b hb
  have enough := length_le_runScript_clocks length e.cfg words e.vregs run e.tap.irCache
  have turns : b + 1 = run.length + (b - run.length + 1) := by
    rw [scriptClocks_append, List.length_append] at hb
    omega
  rw [serviceAccesses, turns]
  rw [← Nat.zero_add run.length] at hp
  exact serviceLoop_does_run hl hx hp (by simpa only [Nat.zero_add] using k (b - run.length)) htap ha b hb

/-! ## Vector re-entry (42_debug_executor.md R138) -/

/-- The second vector read is counted and left pending. -/
theorem serviceTurn_reenters {c : Word} (hc : showsRead e.cfg c) (hp : patient e.cfg waits)
    (hv : e.vregs.vectorReads = 1) :
    Does (serviceTurn words .vectorReentry) length e
      (waitingScript e.cfg waits ++ pendingScript e.cfg c e.cfg.debugVector) (e.cfg.debugVector, true)
      (setVregs (fun v => { v with vectorReads := 2 })
        (afterScript length (waitingScript e.cfg waits ++ pendingScript e.cfg c e.cfg.debugVector) e)) := by
  obtain ⟨hpracc, hprnw⟩ := hc
  have counted (e : Engine) (hprnw : c.getLsbD e.cfg.ctl.prnw = false) (hv : e.vregs.vectorReads = 1) :
      Does (serveAccess words .vectorReentry c e.cfg.debugVector) length e [] true
        (setVregs (fun v => { v with vectorReads := 2 }) e) := by
    refine Does.get ?_
    rw [hprnw, if_neg Bool.false_ne_true, if_pos rfl, hv]
    exact Does.modify ⟨rfl, rfl⟩ (Does.congr (Does.done length true _) rfl (by simp only [setVregs, hv]))
  have served := (counted (afterScript length
    (waitingScript e.cfg waits ++ pendingScript e.cfg c e.cfg.debugVector) e) hprnw hv).bind
    (f := fun finished => pure (e.cfg.debugVector, finished)) ⟨rfl, rfl⟩ (Does.done length _ _)
  exact (pending_does hpracc hp served).congr (List.append_nil _) rfl

theorem vectorFetches_cons (p : Params) (x : Service) (rest : List Service) :
    vectorFetches p (x :: rest) = vectorFetches p rest + vectorFetches p [x] := by
  simp only [vectorFetches, List.countP_cons, List.countP_nil, Nat.zero_add]

theorem serviceRegs_vectorReads (p : Params) (words : List Word) (v : VirtualRegs) (x : Service) :
    (serviceRegs p words v x).vectorReads = v.vectorReads + vectorFetches p [x] := by
  cases x with
  | fetch n c a => by_cases h : a = p.debugVector <;> simp [serviceRegs, vectorFetches, h]
  | store n c a d => rfl

/-- Every vector read of a run is counted. -/
theorem runRegs_vectorReads (p : Params) (words : List Word) (v : VirtualRegs) (run : List Service) :
    (runRegs p words v run).vectorReads = v.vectorReads + vectorFetches p run := by
  induction run generalizing v with
  | nil => rfl
  | cons x rest ih =>
    rw [runRegs, ih, serviceRegs_vectorReads, vectorFetches_cons p x rest]
    omega

/-- With at most one vector read a run is not ended by its accesses. -/
theorem staysIn_of_vectorFetches {p : Params} {v : VirtualRegs} {run : List Service}
    (h : v.vectorReads + vectorFetches p run ≤ 1) : StaysIn p words .vectorReentry v run := by
  induction run generalizing v with
  | nil => trivial
  | cons x rest ih =>
    rw [vectorFetches_cons p x rest] at h
    refine ⟨⟨?_, ?_⟩, ih (by rw [serviceRegs_vectorReads]; omega)⟩
    · cases x with
      | fetch n c a =>
        rintro ⟨rfl, hv, -⟩
        have : vectorFetches p [.fetch n c p.debugVector] = 1 := by simp [vectorFetches]
        omega
      | store n c a d => exact id
    · cases x <;> rfl

/-- The executor serves a run with one vector read, and ends at the next. -/
theorem serviceAccesses_reenters {run : List Service} {c : Word} (hl : runLegal e.cfg words e.vregs run)
    (hone : vectorFetches e.cfg run = 1) (hserved : patient e.cfg run.length) (hwaits : patient e.cfg waits)
    (hc : showsRead e.cfg c) (hv : e.vregs.vectorReads = 0) {script : List Exchange}
    (hs : script = runScript e.cfg words e.vregs run
      ++ (waitingScript e.cfg waits ++ pendingScript e.cfg c e.cfg.debugVector)) :
    Does (serviceAccesses words .vectorReentry) length e script ()
      (setVregs (fun v => { runRegs e.cfg words v run with vectorReads := 2 }) (afterScript length script e)) := by
  subst hs
  refine serviceAccesses_does_run hl (staysIn_of_vectorFetches (by omega)) hserved fun turns => ?_
  have reads : (afterRun length words run e).vregs.vectorReads = 1 :=
    (runRegs_vectorReads e.cfg words e.vregs run).trans (by omega)
  have turn := serviceTurn_reenters (length := length) (words := words) (e := afterRun length words run e) hc hwaits
    reads
  rw [serviceLoop_succ]
  refine Does.congr (turn.bind (Tracks.setVregs ..) (Does.done length () _)) (List.append_nil _) ?_
  rw [afterScript_append length (runScript e.cfg words e.vregs run)]
  rfl

/-- The engine after a module has run along a script, from the virtual registers `v`, to vector re-entry. -/
def afterModule (length : Nat) (words : List Word) (v : VirtualRegs) (run : List Service) (script : List Exchange)
    (e : Engine) : Engine :=
  setVregs (fun _ => { runRegs e.cfg words v run with vectorReads := 2 }) (afterScript length script e)

/-- `ExecModule(m, VECTOR_REENTRY)` of a module that ends: the accesses of its run, and the vector read that ends it. -/
theorem runModule_does {m : ModuleId} {s : State} {v : VirtualRegs} {run : List Service} {c : Word}
    {script : List Exchange} (h : endsAtVector length s words v run waits c script) (hcfg : e.cfg = s.cfg)
    (hm : words = moduleWords s.cfg m) (hv : v = { e.vregs with vectorReads := 0 }) :
    Does (runModule m .vectorReentry) length e script () (afterModule length words v run script e) := by
  obtain ⟨hwords, hl, hone, hserved, hwaits, hc, hscript, -⟩ := h
  rw [← hcfg] at hl hone hserved hwaits hc hscript hm
  subst hv hm
  refine Does.get ?_
  rw [if_neg (by simpa using hwords)]
  exact Does.modify ⟨rfl, rfl⟩ (serviceAccesses_reenters (e := setVregs (fun v => { v with vectorReads := 0 }) e)
    hl hone hserved hwaits hc rfl (hscript.trans (List.append_assoc ..)))

end

/-! ## The PrAcc accesses and the DEPC commands (41_memory_access.md R121-R125, R132, R133) -/

section
variable {length : Nat} {s : State} {width : Width} {words : List Word} {v : VirtualRegs} {run : List Service}
  {waits : Nat} {c : Word} {script : List Exchange}

theorem words_ne_nil_of_endsAtVector (h : endsAtVector length s words v run waits c script) : words ≠ [] := by
  obtain ⟨hwords, -⟩ := h
  exact hwords

theorem follows_of_endsAtVector (h : endsAtVector length s words v run waits c script) : follows length script s := by
  obtain ⟨-, -, -, -, -, -, -, hf⟩ := h
  exact hf

theorem zext_eq_append (h : Half) : zext h = 0#16 ++ h := by
  simp [zext, BitVec.setWidth_eq_append]

/-- What a PrAcc read takes from data_register (R121). -/
def praccDatum : Width → Word → Word
  | .word, d => d
  | .half, d => 0#16 ++ lowHalf d

theorem praccRead_does (h : endsAtVector length s words v run waits c script)
    (hm : words = moduleWords s.cfg (readModule width))
    (hv : v = { s.vregs with address := s.regs.a ||| s.cfg.kseg1Bit, vectorReads := 0 }) :
    Does (praccRead s.regs.a width) length s.toEngine script (praccDatum width (runRegs s.cfg words v run).data)
      (afterModule length words v run script (setVregs (fun v => { v with address := s.regs.a ||| s.cfg.kseg1Bit })
        (recordAccess (.read width s.regs.a) s.toEngine))) := by
  have ran := runModule_does (e := setVregs (fun v => { v with address := s.regs.a ||| s.cfg.kseg1Bit })
    (recordAccess (.read width s.regs.a) s.toEngine)) h rfl hm hv
  refine Does.after (requireModules_ends ?_) ⟨rfl, rfl⟩ (Does.modify ⟨rfl, rfl⟩ (Does.modify ⟨rfl, rfl⟩ ?_))
  · simpa [← hm] using words_ne_nil_of_endsAtVector h
  · refine Does.congr (ran.bind (Tracks.setVregs ..) (Does.get ?_)) (List.append_nil _) rfl
    cases width with
    | word => exact Does.done length _ _
    | half =>
      rw [praccDatum, ← zext_eq_append]
      exact Does.done length _ _

theorem praccWrite_does (h : endsAtVector length s words v run waits c script)
    (hm : words = moduleWords s.cfg (writeModule width))
    (hv : v = { s.vregs with
      address := s.regs.a ||| s.cfg.kseg1Bit, data := busValue width s.regs.b, vectorReads := 0 }) :
    Does (praccWrite s.regs.a width s.regs.b) length s.toEngine script ()
      (afterModule length words v run script (setVregs (fun v => { v with
          address := s.regs.a ||| s.cfg.kseg1Bit, data := busValue width s.regs.b })
        (recordAccess (.write width s.regs.a (busValue width s.regs.b)) s.toEngine))) := by
  have ran := runModule_does (e := setVregs (fun v => { v with
      address := s.regs.a ||| s.cfg.kseg1Bit, data := busValue width s.regs.b })
    (recordAccess (.write width s.regs.a (busValue width s.regs.b)) s.toEngine)) h rfl hm hv
  refine Does.after (requireModules_ends ?_) ⟨rfl, rfl⟩
    (Does.modify ⟨rfl, rfl⟩ (Does.modify ⟨rfl, rfl⟩ (Does.modify ⟨rfl, rfl⟩ ran)))
  simpa [← hm] using words_ne_nil_of_endsAtVector h

/-- MemRead under the PrAcc strategy (R109). -/
theorem memRead_does_pracc {e e' : Engine} {addr d : Word} (hd : e.session.useDma = false)
    (h : Does (praccRead addr width) length e script d e') : Does (memRead addr width) length e script d e' :=
  Does.get (by rw [hd, if_neg Bool.false_ne_true]; exact h)

theorem memWrite_does_pracc {e e' : Engine} {addr v : Word} (hd : e.session.useDma = false)
    (h : Does (praccWrite addr width v) length e script () e') : Does (memWrite addr width v) length e script () e' :=
  Does.get (by rw [hd, if_neg Bool.false_ne_true]; exact h)

theorem depcRead_does (h : endsAtVector length s words v run waits c script) (hm : words = s.cfg.modules.readDepc)
    (hv : v = { s.vregs with vectorReads := 0 }) :
    Does (do
      runModule .readDepc .vectorReentry
      let e ← getEngine
      writeResult e.vregs.data) length s.toEngine script ()
      (setResult (runRegs s.cfg words v run).data (afterModule length words v run script s.toEngine)) := by
  have ran := runModule_does (m := .readDepc) (e := s.toEngine) h rfl hm hv
  exact Does.congr (ran.bind (Tracks.setVregs ..) (Does.get (Does.last (setResult _) _))) (List.append_nil _) rfl

theorem depcWrite_does (h : endsAtVector length s words v run waits c script) (hm : words = s.cfg.modules.writeDepc)
    (hv : v = { s.vregs with data := s.regs.a, vectorReads := 0 }) :
    Does (do
      requireModules [.writeDepc]
      let e ← getEngine
      presentData e.regs.a
      runModule .writeDepc .vectorReentry) length s.toEngine script ()
      (afterModule length words v run script (setVregs (fun v => { v with data := s.regs.a }) s.toEngine)) := by
  have ran := runModule_does (m := .writeDepc) (e := setVregs (fun v => { v with data := s.regs.a }) s.toEngine)
    h rfl hm hv
  refine Does.after (requireModules_ends ?_) ⟨rfl, rfl⟩ (Does.get (Does.modify ⟨rfl, rfl⟩ ran))
  simpa [moduleWords, ← hm] using words_ne_nil_of_endsAtVector h

end

/-! The settled statements, in a namespace of their own: the operations already have these names. -/

namespace MemoryAccess

/-- Settles O37: the read module's run, and the datum it leaves in RESULT. -/
theorem praccRead : Obligations.PraccRead := by
  rintro length s width words v vregs run waits c script h hm hv hends rfl
  have hf := follows_of_endsAtVector hends
  have read := praccRead_does (width := width) hends (by cases width <;> exact hm) hv
  rintro i (rfl | ⟨hd, rfl⟩)
  · cases width <;> exact exec_readCommand h rfl read ⟨rfl, rfl⟩ hf
  · cases width <;> exact exec_readCommand h rfl (memRead_does_pracc hd read) ⟨rfl, rfl⟩ hf

/-- Settles O38: the write module's run, from the registers the write has set. -/
theorem praccWrite : Obligations.PraccWrite := by
  intro length s width words v run waits c script h hm hv hends
  have hf := follows_of_endsAtVector hends
  have write := praccWrite_does (width := width) hends (by cases width <;> exact hm) hv
  rintro i (rfl | ⟨hd, rfl⟩)
  · cases width <;> exact exec_writeCommand h rfl write hf
  · cases width <;> exact exec_writeCommand h rfl (memWrite_does_pracc hd write) hf

end MemoryAccess

/-- Settles O41: each command is its module's run, DEPC_WRITE's from the data register that holds A. -/
theorem depcAccess : Obligations.DepcAccess := by
  rintro length s words v vregs run waits c script h hends rfl
  have hf := follows_of_endsAtVector hends
  exact ⟨fun hm hv => runCommand_does h (depcRead_does hends hm hv) hf,
    fun hm hv => runCommand_does h (depcWrite_does hends hm hv) hf⟩

end Sys2Proof.Machine
end

section
/-!
EXEC_MODULE and PROC_RESUME along a run of target accesses (42_debug_executor.md R134-R141): the start of a module run,
its end at vector re-entry, and its end on the last word of the module.
-/

namespace Sys2Proof.Machine

/-! ## The start of a module run (42_debug_executor.md R134) -/

section
variable {length : Nat} {s : State} {e e' : Engine} {m : ModuleId} {words : List Word} {term : Termination}
  {script : List Exchange}

/-- A module run starts with no vector read counted. -/
def restarted (e : Engine) : Engine :=
  setVregs (fun v => { v with vectorReads := 0 }) e

/-- With words to run, ExecModule is the executor's loop. -/
theorem runModule_run (hm : words = moduleWords e.cfg m) (hw : words ≠ []) (b : Nat) :
    runModule m term { eng := e, budget := b } = serviceAccesses words term { eng := restarted e, budget := b } := by
  subst hm
  simp only [runModule, bind_run, getEngine, if_neg (mt List.isEmpty_iff.mp hw)]
  rfl

theorem runModule_does_accesses (hm : words = moduleWords e.cfg m) (hw : words ≠ [])
    (h : Does (serviceAccesses words term) length (restarted e) script () e') :
    Does (runModule m term) length e script () e' :=
  fun hl ha b hb => (runModule_run hm hw b).trans (h hl ha b hb)

theorem runModule_fails_accesses (hm : words = moduleWords e.cfg m) (hw : words ≠ [])
    (h : Fails (serviceAccesses words term) length (restarted e) script e') :
    Fails (runModule m term) length e script e' :=
  fun hl ha b hb => (runModule_run hm hw b).trans (h hl ha b hb)

/-- How a run of each module ends (R134): module 4 on its last word, the others at vector re-entry. -/
def terminationOf (m : ModuleId) : Termination :=
  if m = .returnFromDebug then .lastWord else .vectorReentry

theorem execSelectedModule_does (hm : moduleIdOf e.regs.a = some m)
    (h : Does (runModule m (terminationOf m)) length e script () e') :
    Does execSelectedModule length e script () e' :=
  Does.get (by rw [hm]; exact h)

theorem execSelectedModule_fails (hm : moduleIdOf e.regs.a = some m)
    (h : Fails (runModule m (terminationOf m)) length e script e') :
    Fails execSelectedModule length e script e' :=
  Fails.after (getEngine_ends e) ⟨rfl, rfl⟩ (by rw [hm]; exact h)

end

/-- Settles O39: the selected module's run. -/
theorem execModuleVector : Obligations.ExecModuleVector := by
  intro length s m words v run waits c script h hid hm hw hv hends
  have ran := runModule_does (e := s.toEngine) hends rfl hw hv
  have selected : terminationOf m = .vectorReentry := if_neg hm
  exact runCommand_does h (execSelectedModule_does hid (selected ▸ ran)) (follows_of_endsAtVector hends)

/-! ## The last word (42_debug_executor.md R138) -/

section
variable {p : Params} {words : List Word} {v : VirtualRegs} {run rest : List Service}

theorem runRegs_append : runRegs p words v (run ++ rest) = runRegs p words (runRegs p words v run) rest := by
  induction run generalizing v with
  | nil => rfl
  | cons x run ih => exact ih

theorem runScript_append :
    runScript p words v (run ++ rest) = runScript p words v run ++ runScript p words (runRegs p words v run) rest := by
  induction run generalizing v with
  | nil => rfl
  | cons x run ih => rw [List.cons_append, runScript, ih, runScript, runRegs, List.append_assoc]

theorem runLegal_append :
    runLegal p words v (run ++ rest) ↔ runLegal p words v run ∧ runLegal p words (runRegs p words v run) rest := by
  induction run generalizing v with
  | nil => exact (true_and _).to_iff.symm
  | cons x run ih => rw [List.cons_append, runLegal, ih, runLegal, runRegs, and_assoc]

theorem suppliesLast_fetch_iff {term : Termination} {waits : Nat} {c a : Word} :
    suppliesLast p words term (.fetch waits c a) = true
      ↔ term = .lastWord ∧ p.debugVector ≤ a ∧ moduleOffset p a = words.length - 1 := by
  simp only [suppliesLast, readOffset, Bool.and_eq_true, decide_eq_true_eq]
  split_ifs with h <;> simp [h]

theorem not_reenters_lastWord (x : Service) : ¬ Reenters p .lastWord v x := by
  cases x with
  | fetch waits c a => rintro ⟨-, -, ⟨⟩⟩
  | store waits c a d => exact id

/-- Without a fetch of the last word, the accesses of a run do not end it. -/
theorem staysIn_of_not_last (h : ∀ n b x, Service.fetch n b x ∈ run → p.debugVector ≤ x →
    moduleOffset p x ≠ words.length - 1) : StaysIn p words .lastWord v run := by
  induction run generalizing v with
  | nil => trivial
  | cons x rest ih =>
    refine ⟨⟨not_reenters_lastWord x, ?_⟩, ih fun n b x hx => h n b x (List.mem_cons_of_mem _ hx)⟩
    cases x with
    | fetch n b a =>
      refine Bool.eq_false_iff.mpr fun hlast => ?_
      obtain ⟨-, above, last⟩ := suppliesLast_fetch_iff.mp hlast
      exact h n b a (List.mem_cons_self ..) above last
    | store n b a d => rfl

end

section
variable {length waits : Nat} {e : Engine} {words : List Word} {run rest : List Service} {c a : Word}

theorem afterRun_append :
    afterRun length words (run ++ rest) e = afterRun length words rest (afterRun length words run e) := by
  induction run generalizing e with
  | nil => rfl
  | cons x run ih => rw [List.cons_append, afterRun_cons, ih, afterRun_cons]

/-- The loop ends with the access that supplies the last word. -/
theorem serviceLoop_suppliesLast {x : Service} (hl : serviceLegal e.cfg words e.vregs x)
    (hx : suppliesLast e.cfg words .lastWord x = true) (turns serviced : Nat) :
    Does (serviceLoop words .lastWord (turns + 1) serviced) length e (runScript e.cfg words e.vregs [x]) ()
      (afterRun length words [x] e) := by
  have turn := serviceTurn_does (length := length) hl (not_reenters_lastWord x)
  rw [hx] at turn
  rw [serviceLoop_succ, afterRun_cons]
  exact turn.bind (Tracks.setVregs ..) (Does.done length () _)

/-- The executor serves a run without the last word, and ends when it has supplied that word. -/
theorem serviceAccesses_suppliesLast (hl : runLegal e.cfg words e.vregs (run ++ [.fetch waits c a]))
    (hx : ∀ n b x, Service.fetch n b x ∈ run → e.cfg.debugVector ≤ x → moduleOffset e.cfg x ≠ words.length - 1)
    (hp : patient e.cfg run.length) (ha : e.cfg.debugVector ≤ a) (hlast : moduleOffset e.cfg a = words.length - 1) :
    Does (serviceAccesses words .lastWord) length e (runScript e.cfg words e.vregs (run ++ [.fetch waits c a])) ()
      (afterRun length words (run ++ [.fetch waits c a]) e) := by
  obtain ⟨hrun, hfetch, -⟩ := runLegal_append.mp hl
  rw [runScript_append, afterRun_append]
  exact serviceAccesses_does_run hrun (staysIn_of_not_last hx) hp fun turns =>
    serviceLoop_suppliesLast (e := afterRun length words run e) hfetch
      (suppliesLast_fetch_iff.mpr ⟨rfl, ha, hlast⟩) turns _

end

/-- Settles O40: the run up to the last word, whose supply ends the module. -/
theorem lastWordEnds : Obligations.LastWordEnds := by
  rintro length s words v run waits c a script h hm hw ha hlast rfl hl hx hp rfl hf vregs rfl
  have ran : Does (runModule .returnFromDebug .lastWord) length s.toEngine _ () _ :=
    runModule_does_accesses hm hw
      (serviceAccesses_suppliesLast (length := length) (e := restarted s.toEngine) hl hx hp ha hlast)
  exact ⟨runCommand_does h (Does.congr (ran.bind (Tracks.setVregs ..) (Does.last _ _)) (List.append_nil _) rfl) hf,
    fun h4 => runCommand_does h (execSelectedModule_does (by rw [h4]; rfl) ran) hf⟩

end Sys2Proof.Machine
end

section
/-!
The faults of the executor (42_debug_executor.md R134, R139): a fetch outside the module, after any run of target
accesses, and the F_NO_MODULE of every command that is sure to run an empty module (60_exceptions.md R189).
-/

namespace Sys2Proof.Machine

/-! ## A fetch outside the module (42_debug_executor.md R139) -/

theorem faultedEngine_of_not_faulted {e : Engine} (h : e.status.faulted = false) (code : FaultCode) (info : Word) :
    faultedEngine code info e = faultEntry code info e := by
  simp only [faultedEngine, faultEntry, setResult, setRegs, setStatus, faultedStatus, h, Bool.false_eq_true, if_false]

theorem Fails.congr {α : Type} {op : Op α} {length : Nat} {e e' : Engine} {p q : List Exchange}
    (h : Fails op length e p e') (hp : p = q) : Fails op length e q e' :=
  hp ▸ h

section
variable {length waits : Nat} {e e' : Engine} {words : List Word} {term : Termination} {run : List Service}
  {c a : Word}

/-- The CONTROL value and the address of the next access (R135, R136). -/
def pendingAccess : Op (Word × Word) := do
  selectControl
  let c ← waitPending
  selectAddress
  let a ← rwData 0#32
  pure (c, a)

theorem pendingAccess_does (hc : c.getLsbD e.cfg.ctl.pracc = true) (hp : patient e.cfg waits) :
    Does pendingAccess length e (waitingScript e.cfg waits ++ pendingScript e.cfg c a) (c, a)
      (afterScript length (waitingScript e.cfg waits ++ pendingScript e.cfg c a) e) :=
  (pending_does (f := fun c a => pure (c, a)) hc hp (Does.done length _ _)).congr (List.append_nil _) rfl

theorem serviceTurn_eq (words : List Word) (term : Termination) :
    serviceTurn words term = (do
      let x ← pendingAccess
      let finished ← serveAccess words term x.1 x.2
      pure (x.2, finished)) := by
  simp only [serviceTurn, pendingAccess, bind_assoc, pure_bind]

/-- Past the last word there is nothing to read. -/
theorem readValue_raises (ha : e.cfg.debugVector ≤ a) (hout : words.length ≤ moduleOffset e.cfg a) :
    Raises (readValue words a) e 0 (faultedEngine .moduleRange a e) := by
  refine .get ?_
  rw [if_pos ha, List.getElem?_eq_none hout]
  exact raiseFault_raises _ _ e

theorem moduleOffset_vector (p : Params) : moduleOffset p p.debugVector = 0 := by
  simp [moduleOffset]

theorem serveAccess_raises (hr : c.getLsbD e.cfg.ctl.prnw = false) (hw : words ≠ []) (ha : e.cfg.debugVector ≤ a)
    (hout : words.length ≤ moduleOffset e.cfg a) :
    Raises (serveAccess words term c a) e 0 (faultedEngine .moduleRange a e) := by
  have vector : a ≠ e.cfg.debugVector := by
    rintro rfl
    rw [moduleOffset_vector, Nat.le_zero, List.length_eq_zero_iff] at hout
    exact hw hout
  refine .get ?_
  rw [hr, if_neg Bool.false_ne_true, if_neg vector]
  exact (readValue_raises ha hout).bind

/-- The fetch is left pending: nothing is driven after its address is read. -/
theorem serviceLoop_leavesModule (hc : showsRead e.cfg c) (hp : patient e.cfg waits) (hw : words ≠ [])
    (ha : e.cfg.debugVector ≤ a) (hout : words.length ≤ moduleOffset e.cfg a) (turns serviced : Nat) :
    Fails (serviceLoop words term (turns + 1) serviced) length e
      (waitingScript e.cfg waits ++ pendingScript e.cfg c a)
      (faultedEngine .moduleRange a
        (afterScript length (waitingScript e.cfg waits ++ pendingScript e.cfg c a) e)) := by
  obtain ⟨hpracc, hprnw⟩ := hc
  have outside (e : Engine) (hprnw : c.getLsbD e.cfg.ctl.prnw = false) (ha : e.cfg.debugVector ≤ a)
      (hout : words.length ≤ moduleOffset e.cfg a) :
      Fails (serveAccess words term c a >>= fun finished => pure (a, finished)) length e []
        (faultedEngine .moduleRange a e) :=
    Fails.of_raises (serveAccess_raises hprnw hw ha hout).bind
  rw [serviceLoop_succ, serviceTurn_eq]
  refine Fails.bind (Fails.congr ?_ (List.append_nil _))
  exact (pendingAccess_does hpracc hp).fails (Tracks.afterScript ..) (outside _ hprnw ha hout)

/-- The loop serves a run whose accesses do not end it, and takes a fault later. -/
theorem serviceLoop_fails_run {turns serviced : Nat} {q : List Exchange}
    (hl : runLegal e.cfg words e.vregs run) (hx : StaysIn e.cfg words term e.vregs run)
    (hp : patient e.cfg (serviced + run.length))
    (k : Fails (serviceLoop words term turns (serviced + run.length)) length (afterRun length words run e) q e') :
    Fails (serviceLoop words term (run.length + turns) serviced) length e (runScript e.cfg words e.vregs run ++ q)
      e' := by
  induction run generalizing serviced e with
  | nil =>
    rw [List.length_nil, Nat.zero_add]
    exact k
  | cons x rest ih =>
    obtain ⟨hx, hrest⟩ := hx
    obtain ⟨hlegal, hlrest⟩ := hl
    have count : serviced + (rest.length + 1) = serviced + 1 + rest.length := by omega
    rw [List.length_cons, count] at hp k
    rw [afterRun_cons] at k
    rw [List.length_cons, Nat.add_right_comm, serviceLoop_succ, runScript, List.append_assoc]
    refine (serviceTurn_does hlegal hx.1).fails (Tracks.setVregs ..) ?_
    rw [hx.2, if_neg Bool.false_ne_true]
    refine Fails.after (checkTimeout_ends fun bound hb => ?_) ⟨rfl, rfl⟩ (ih hlrest hrest hp k)
    exact Nat.lt_of_le_of_lt (Nat.le_add_right _ _) (hp bound hb)

theorem serviceAccesses_fails_run {q : List Exchange} (hl : runLegal e.cfg words e.vregs run)
    (hx : StaysIn e.cfg words term e.vregs run) (hp : patient e.cfg run.length)
    (k : ∀ turns, Fails (serviceLoop words term (turns + 1) run.length) length (afterRun length words run e) q e') :
    Fails (serviceAccesses words term) length e (runScript e.cfg words e.vregs run ++ q) e' := by
  intro htap ha b hb
  have enough := length_le_runScript_clocks length e.cfg words e.vregs run e.tap.irCache
  have turns : b + 1 = run.length + (b - run.length + 1) := by
    rw [scriptClocks_append, List.length_append] at hb
    omega
  rw [serviceAccesses, turns]
  rw [← Nat.zero_add run.length] at hp
  exact serviceLoop_fails_run hl hx hp (by simpa only [Nat.zero_add] using k (b - run.length)) htap ha b hb

/-- The executor serves a run that does not end it, and takes F_MODULE_RANGE at a fetch outside the module. -/
theorem serviceAccesses_leavesModule (hl : runLegal e.cfg words e.vregs run)
    (hx : StaysIn e.cfg words term e.vregs run) (hserved : patient e.cfg run.length) (hwaits : patient e.cfg waits)
    (hc : showsRead e.cfg c) (hw : words ≠ []) (ha : e.cfg.debugVector ≤ a)
    (hout : words.length ≤ moduleOffset e.cfg a) {script : List Exchange}
    (hs : script = runScript e.cfg words e.vregs run ++ (waitingScript e.cfg waits ++ pendingScript e.cfg c a)) :
    Fails (serviceAccesses words term) length e script
      (faultedEngine .moduleRange a (setVregs (fun v => runRegs e.cfg words v run) (afterScript length script e))) := by
  subst hs
  rw [afterScript_append]
  exact serviceAccesses_fails_run hl hx hserved fun turns =>
    serviceLoop_leavesModule (e := afterRun length words run e) hc hwaits hw ha hout turns _

end

/-- A run that does not end the module, whichever way it ends (R134, R138). -/
theorem staysIn_of_termination {p : Params} {words : List Word} {m : ModuleId} {v : VirtualRegs} {run : List Service}
    (hv : v.vectorReads = 0) (hvector : m ≠ .returnFromDebug → vectorFetches p run ≤ 1)
    (hlast : m = .returnFromDebug → ∀ n b x, Service.fetch n b x ∈ run → p.debugVector ≤ x →
      moduleOffset p x ≠ words.length - 1) : StaysIn p words (terminationOf m) v run := by
  by_cases hm : m = .returnFromDebug
  · rw [terminationOf, if_pos hm]
    exact staysIn_of_not_last (hlast hm)
  · rw [terminationOf, if_neg hm]
    exact staysIn_of_vectorFetches (by have := hvector hm; omega)

/-! ## The operand of EXEC_MODULE (30_encoding.md R70) -/

theorem moduleIdOf_eq_none {a : Word} (h : 6 < a.toNat) : moduleIdOf a = none := by
  obtain ⟨n, hn⟩ : ∃ n, a.toNat = n + 7 := ⟨a.toNat - 7, by omega⟩
  rw [moduleIdOf, hn]
  rfl

theorem moduleNumber_of_moduleIdOf {a : Word} {m : ModuleId} (h : moduleIdOf a = some m) : moduleNumber m = a := by
  rw [moduleIdOf] at h
  split at h <;> cases h <;> exact BitVec.eq_of_toNat_eq (by simp only [*]; rfl)

theorem execSelectedModule_raises {e : Engine} (h : 6 < e.regs.a.toNat) :
    Raises execSelectedModule e 0 (faultedEngine .badOperand e.regs.a e) :=
  .get (by rw [moduleIdOf_eq_none h]; exact raiseFault_raises _ _ e)

/-! ## The checks of modules (60_exceptions.md R189) -/

/-- The words and the number of each module of a list. -/
def numbered (p : Params) (ms : List ModuleId) : List (List Word × Word) :=
  ms.map fun m => (moduleWords p m, moduleNumber m)

theorem firstMissing_numbered_cons (p : Params) (m : ModuleId) (rest : List ModuleId) :
    firstMissing (numbered p (m :: rest))
      = if moduleWords p m = [] then some (moduleNumber m) else firstMissing (numbered p rest) := rfl

/-- If one of the modules has no words, the operation takes F_NO_MODULE for the first such, before anything else. -/
def Needs {α : Type} (op : Op α) (e : Engine) (ms : List ModuleId) : Prop :=
  ∀ number, firstMissing (numbered e.cfg ms) = some number →
    Raises op e 0 (faultedEngine .noModule number e)

section
variable {α β : Type} {op : Op α} {f : α → Op β} {e : Engine} {ms : List ModuleId} {m : ModuleId} {x : α}

theorem Needs.bind (h : Needs op e ms) : Needs (op >>= f) e ms :=
  fun number hn => (h number hn).bind

theorem Needs.after (h : Ends op e 0 x e) (k : Needs (f x) e ms) : Needs (op >>= f) e ms :=
  fun number hn => h.beforeRaises (k number hn)

theorem Needs.get {f : Engine → Op β} (k : Needs (f e) e ms) : Needs (getEngine >>= f) e ms :=
  .after (getEngine_ends e) k

theorem requireModules_needs : Needs (requireModules ms) e ms := by
  induction ms with
  | nil => intro number hn; cases hn
  | cons m rest ih =>
    intro number hn
    rw [firstMissing_numbered_cons] at hn
    refine .get ?_
    split_ifs at hn with hm
    · cases hn
      rw [if_pos (List.isEmpty_iff.mpr hm)]
      exact raiseFault_raises _ _ e
    · rw [if_neg (mt List.isEmpty_iff.mp hm)]
      exact ih number hn

theorem runModule_needs (m : ModuleId) (term : Termination) : Needs (runModule m term) e [m] := by
  intro number hn
  rw [firstMissing_numbered_cons] at hn
  refine .get ?_
  split_ifs at hn with hm
  · cases hn
    rw [if_pos (List.isEmpty_iff.mpr hm)]
    exact raiseFault_raises _ _ e
  · cases hn

theorem praccRead_needs (addr : Word) (width : Width) : Needs (praccRead addr width) e [readModule width] :=
  .bind requireModules_needs

theorem praccWrite_needs (addr : Word) (width : Width) (v : Word) :
    Needs (praccWrite addr width v) e [writeModule width] :=
  .bind requireModules_needs

theorem readCommand_needs {primitive : Word → Width → Op Word} {width : Width}
    (h : Needs (primitive e.regs.a width) e ms) : Needs (readCommand primitive width) e ms :=
  .get h.bind

theorem writeCommand_needs {primitive : Word → Width → Word → Op Unit} {width : Width}
    (h : Needs (primitive e.regs.a width e.regs.b) e ms) : Needs (writeCommand primitive width) e ms :=
  .get h

theorem execSelectedModule_needs (h : moduleIdOf e.regs.a = some m) : Needs execSelectedModule e [m] :=
  .get (by rw [h]; exact runModule_needs m _)

end

/-! ### The accesses of the PrAcc strategy (41_memory_access.md R109) -/

section
variable {e : Engine} {ms : List ModuleId} (hd : e.session.useDma = false)
include hd

theorem requireAccesses_needs : Needs (requireAccesses ms) e ms :=
  .get (by rw [hd, if_neg Bool.false_ne_true]; exact requireModules_needs)

theorem memRead_needs (addr : Word) (width : Width) : Needs (memRead addr width) e [readModule width] :=
  .get (by rw [hd, if_neg Bool.false_ne_true]; exact praccRead_needs addr width)

theorem memWrite_needs (addr : Word) (width : Width) (v : Word) :
    Needs (memWrite addr width v) e [writeModule width] :=
  .get (by rw [hd, if_neg Bool.false_ne_true]; exact praccWrite_needs addr width v)

theorem requireChangeAccesses_needs : Needs requireChangeAccesses e (changeModules e.flash.cmdType) :=
  .get (requireAccesses_needs hd)

theorem requireResetAccesses_needs : Needs requireResetAccesses e (resetModules e.flash.cmdType) :=
  .get (requireAccesses_needs hd)

theorem requireBypassAccesses_needs {entering : Bool} (h : e.flash.bypassActive ≠ entering) :
    Needs (requireBypassAccesses entering) e [.writeHalf] :=
  .get (by rw [if_neg h]; exact requireAccesses_needs hd)

theorem probeFlash_needs : Needs probeFlash e (probeModules e.cfg e.session.spiLayout) :=
  .bind (.get (requireAccesses_needs hd))

theorem requireEraseAccesses_needs (h : selectBlocks e.flash.blockTable e.area.start e.area.length ≠ []) :
    Needs requireEraseAccesses e (changeModules e.flash.cmdType) :=
  .get (by rw [if_neg (mt List.isEmpty_iff.mp h)]; exact requireChangeAccesses_needs hd)

end

/-! ### The checks that come before them (44_flash_parallel.md R160, 46_area_ops.md R181) -/

section
variable {e : Engine}

theorem requireFlash_ends (h : e.flash.cmdType ≠ none) : Ends requireFlash e 0 () e :=
  .get (by rw [if_neg h]; exact Ends.pure () e)

theorem requireSpiLayout_ends (h : e.flash.cmdType ≠ some .spi ∨ e.session.spiLayout ≠ none) :
    Ends requireSpiLayout e 0 () e :=
  .get (by rw [if_neg (by tauto)]; exact Ends.pure () e)

theorem requireSpiPart_ends (h : e.flash.cmdType = some .spi) : Ends requireSpiPart e 0 () e :=
  .get (by rw [if_pos h]; exact Ends.pure () e)

theorem requireBypassPart_ends (h : amdStyle e) : Ends requireBypassPart e 0 () e :=
  .get (by rw [if_pos h]; exact Ends.pure () e)

theorem requireArea_ends (h : e.area.valid = true) : Ends requireArea e 0 () e :=
  .get (by rw [if_pos h]; exact Ends.pure () e)

theorem guardSize_needs {checks body : Op Unit} {ms : List ModuleId} (hs : e.flash.size ≠ 0#32)
    (hl : e.area.length ≠ 0#32) (h : Needs checks e ms) : Needs (guardSize checks body) e ms :=
  fun number hn b hb => (guardSize_runs hs hl b).trans ((h number hn).bind b hb)

end

/-! ### The commands -/

/-- A part that may be erased and programmed (44_flash_parallel.md R160), with the modules that this is sure to run
(assumption 9). -/
structure Changeable (e : Engine) (ms : List ModuleId) : Prop where
  part : e.flash.cmdType ≠ none
  layout : e.flash.cmdType ≠ some .spi ∨ e.session.spiLayout ≠ none
  modules : changeModules e.flash.cmdType = ms

theorem changeable_nor {e : Engine} (h : amdStyle e ∨ bscStyle e) : Changeable e [.writeHalf, .readHalf] := by
  obtain (h | h) | (h | h) := h <;> exact ⟨by simp [h], .inl (by simp [h]), by rw [h]; rfl⟩

theorem changeable_spi {e : Engine} (h : spiStyle e) : Changeable e [.writeWord, .readWord] := by
  obtain ⟨hpart, hlayout⟩ := h
  exact ⟨by simp [hpart], .inr hlayout, by rw [hpart]; rfl⟩

theorem resetModules_nor {e : Engine} (h : amdStyle e ∨ bscStyle e) :
    resetModules e.flash.cmdType = [.writeHalf] := by
  obtain (h | h) | (h | h) := h <;> rw [h] <;> rfl

section
variable {length : Nat} {s : State} {ms : List ModuleId}

/-- A command whose operation checks its modules takes their fault, and its state has changed in nothing else. -/
theorem needsModules_of_needs {i : Instr} {body : Op Unit} (h : ready length s)
    (hexec : exec i s = runCommand i .irUsing body s) (hb : Needs body s.toEngine ms) :
    needsModules s i (numbered s.cfg ms) := by
  intro number hn
  obtain ⟨-, hfaulted⟩ := h.1
  rw [hexec, ← faultedEngine_of_not_faulted hfaulted]
  exact runCommand_raises h.1 ((checkClass_irUsing h).beforeRaises (hb number hn)) (Nat.zero_le _)

theorem execModule_needsModules {m : ModuleId} (h : ready length s) (hm : moduleIdOf s.regs.a = some m) :
    needsModules s .execModule [(moduleWords s.cfg m, s.regs.a)] := by
  rw [← moduleNumber_of_moduleIdOf hm]
  exact needsModules_of_needs h rfl (execSelectedModule_needs hm)

/-- The commands that use no other strategy (41_memory_access.md R121-R125, R131-R133). -/
theorem pracc_needsModules (h : ready length s) :
    ∀ x ∈ [(Instr.praccRead32, s.cfg.modules.readWord, 0#32), (.praccWrite32, s.cfg.modules.writeWord, 1#32),
        (.praccRead16, s.cfg.modules.readHalf, 2#32), (.praccWrite16, s.cfg.modules.writeHalf, 3#32),
        (.procResume, s.cfg.modules.returnFromDebug, 4#32), (.depcRead, s.cfg.modules.readDepc, 5#32),
        (.depcWrite, s.cfg.modules.writeDepc, 6#32)], needsModules s x.1 [x.2] := by
  simp only [List.forall_mem_cons]
  exact ⟨needsModules_of_needs h rfl (readCommand_needs (praccRead_needs _ .word)),
    needsModules_of_needs h rfl (writeCommand_needs (praccWrite_needs _ .word _)),
    needsModules_of_needs h rfl (readCommand_needs (praccRead_needs _ .half)),
    needsModules_of_needs h rfl (writeCommand_needs (praccWrite_needs _ .half _)),
    needsModules_of_needs h rfl (.bind (runModule_needs .returnFromDebug _)),
    needsModules_of_needs h rfl (.bind (runModule_needs .readDepc _)),
    needsModules_of_needs h rfl (.bind (requireModules_needs (ms := [.writeDepc]))),
    List.forall_mem_nil _⟩

/-- The commands that use the strategy selected (41_memory_access.md R109-R113). -/
theorem mem_needsModules (h : ready length s) (hd : s.session.useDma = false) :
    ∀ x ∈ [(Instr.memRead32, s.cfg.modules.readWord, 0#32), (.memWrite32, s.cfg.modules.writeWord, 1#32),
        (.memRead16, s.cfg.modules.readHalf, 2#32), (.memWrite16, s.cfg.modules.writeHalf, 3#32)],
      needsModules s x.1 [x.2] := by
  simp only [List.forall_mem_cons]
  exact ⟨needsModules_of_needs h rfl (readCommand_needs (memRead_needs hd _ .word)),
    needsModules_of_needs h rfl (writeCommand_needs (memWrite_needs hd _ .word _)),
    needsModules_of_needs h rfl (readCommand_needs (memRead_needs hd _ .half)),
    needsModules_of_needs h rfl (writeCommand_needs (memWrite_needs hd _ .half _)),
    List.forall_mem_nil _⟩

theorem flashChange_needsModules {i : Instr} (h : ready length s) (hd : s.session.useDma = false)
    (hpart : Changeable s.toEngine ms) (hi : i ∈ [Instr.flashEraseBlock, .flashProgramWord]) :
    needsModules s i (numbered s.cfg ms) := by
  have checked {op : Op Unit} : Needs (do requireFlash; requireSpiLayout; requireChangeAccesses; op) s.toEngine ms :=
    .after (requireFlash_ends hpart.part) (.after (requireSpiLayout_ends hpart.layout)
      (.bind (hpart.modules ▸ requireChangeAccesses_needs hd)))
  simp only [List.mem_cons, List.not_mem_nil, or_false] at hi
  obtain rfl | rfl := hi
  · exact needsModules_of_needs h rfl checked
  · exact needsModules_of_needs h rfl checked

theorem spiChange_needsModules (h : ready length s) (hd : s.session.useDma = false) (hspi : spiStyle s.toEngine) :
    ∀ i ∈ [Instr.flashEraseBlock, .flashProgramWord, .spiChipErase],
      needsModules s i (numbered s.cfg [.writeWord, .readWord]) := by
  have hpart := changeable_spi hspi
  have chip : needsModules s .spiChipErase (numbered s.cfg [.writeWord, .readWord]) :=
    needsModules_of_needs h rfl (.after (requireFlash_ends hpart.part) (.after (requireSpiPart_ends hspi.1)
      (.after (requireSpiLayout_ends hpart.layout) (.bind (hpart.modules ▸ requireChangeAccesses_needs hd)))))
  exact List.forall_mem_append.mpr
    ⟨fun i hi => flashChange_needsModules h hd hpart hi, List.forall_mem_singleton.mpr chip⟩

theorem flashResetRead_needsModules (h : ready length s) (hd : s.session.useDma = false)
    (hnor : amdStyle s.toEngine ∨ bscStyle s.toEngine) :
    needsModules s .flashResetRead (numbered s.cfg [.writeHalf]) :=
  have hpart := changeable_nor hnor
  needsModules_of_needs h rfl (.after (requireFlash_ends hpart.part) (.after (requireSpiLayout_ends hpart.layout)
    (.bind (resetModules_nor hnor ▸ requireResetAccesses_needs hd))))

theorem flashBypass_needsModules (h : ready length s) (hd : s.session.useDma = false) (hamd : amdStyle s.toEngine) :
    needsModules s (if s.flash.bypassActive = true then .flashBypassExit else .flashBypassEnter)
      (numbered s.cfg [.writeHalf]) := by
  have hpart := changeable_nor (.inl hamd)
  have checked {entering : Bool} {op : Op Unit} (hb : s.flash.bypassActive ≠ entering) :
      Needs (do requireFlash; requireBypassPart; requireBypassAccesses entering; op) s.toEngine [.writeHalf] :=
    .after (requireFlash_ends hpart.part) (.after (requireBypassPart_ends hamd)
      (.bind (requireBypassAccesses_needs hd hb)))
  split_ifs with hb
  · exact needsModules_of_needs h rfl (checked (by simp [hb]))
  · exact needsModules_of_needs h rfl (checked hb)

theorem flashProbe_needsModules (h : ready length s) (hd : s.session.useDma = false) :
    needsModules s .flashProbe (numbered s.cfg (probeModules s.cfg s.session.spiLayout)) :=
  needsModules_of_needs h rfl (probeFlash_needs hd)

theorem areaBackup_needsModules (h : ready length s) (hd : s.session.useDma = false) (hvalid : s.area.valid = true)
    (hs : s.flash.size ≠ 0#32) (hl : s.area.length ≠ 0#32) :
    needsModules s .areaBackup (numbered s.cfg [.readWord]) :=
  needsModules_of_needs h rfl (.after (requireArea_ends hvalid) (guardSize_needs hs hl (requireAccesses_needs hd)))

theorem areaChange_needsModules {i : Instr} (h : ready length s) (hd : s.session.useDma = false)
    (hvalid : s.area.valid = true) (hs : s.flash.size ≠ 0#32) (hl : s.area.length ≠ 0#32)
    (hpart : Changeable s.toEngine ms)
    (hi : i = .areaProgram ∨ (i = .areaErase ∧ ∃ a ∈ s.flash.blockTable,
      s.area.start.toNat ≤ a.toNat ∧ a.toNat < s.area.start.toNat + s.area.length.toNat)) :
    needsModules s i (numbered s.cfg ms) := by
  have guarded {checks op : Op Unit} (hc : Needs checks s.toEngine (changeModules s.flash.cmdType)) :
      Needs (do requireArea; requireSpiLayout; guardSize checks op) s.toEngine ms :=
    .after (requireArea_ends hvalid) (.after (requireSpiLayout_ends hpart.layout)
      (guardSize_needs hs hl (hpart.modules ▸ hc)))
  obtain rfl | ⟨rfl, a, ha, hin⟩ := hi
  · exact needsModules_of_needs h rfl (guarded (requireChangeAccesses_needs hd))
  · have selected : selectBlocks s.flash.blockTable s.area.start s.area.length ≠ [] :=
      List.ne_nil_of_mem (List.mem_filter.mpr ⟨ha, by simpa using hin⟩)
    exact needsModules_of_needs h rfl (guarded (requireEraseAccesses_needs hd selected))

/-- The modules of a probe, as the statement lists them. -/
theorem numbered_probeModules (p : Params) (layout : Option SpiFamily) :
    numbered p (probeModules p layout) = numbered p [.writeHalf, .readHalf]
      ++ if layout ≠ none ∧ p.flashTable = [] then numbered p [.writeWord, .readWord] else [] := by
  rw [probeModules, numbered, List.map_append]
  congr 1
  by_cases h : layout ≠ none ∧ p.flashTable = []
  · rw [if_pos h, if_pos (by simpa [Option.isSome_iff_ne_none] using h)]
    rfl
  · rw [if_neg h, if_neg (by simpa [Option.isSome_iff_ne_none] using h)]
    rfl

/-- A fault of a command that FAULTED does not hold back, or whose block is not FAULTED (60_exceptions.md R191). -/
theorem runCommand_allowed_raises {i : Instr} {c : CommandClass} {body : Op Unit} {n : Nat} {e : Engine}
    (hidle : s.running = none) (hi : s.status.faulted = false ∨ runsWhileFaulted i = true)
    (hc : Ends (checkClass c) s.toEngine 0 () s.toEngine) (hb : Raises body s.toEngine n e)
    (hn : n ≤ clocksAllowed s) : runCommand i c body s = .next (ending e s) := by
  have allowed : (s.status.faulted && !runsWhileFaulted i) = false := by
    rcases hi with hi | hi <;> simp [hi]
  simp only [runCommand, startPoint_idle hidle, allowed, Bool.false_eq_true, if_false]
  rw [hc.beforeRaises hb _ hn]
  rfl

/-- SESSION_END of a NOR part, also while FAULTED = 1 (46_area_ops.md R186, 60_exceptions.md R191). -/
theorem sessionEnd_noModule (hidle : s.running = none) (hs : s.cable.shadow = some .runTestIdle)
    (hir : s.tap.irLength = some length) (hd : s.session.useDma = false)
    (hnor : amdStyle s.toEngine ∨ bscStyle s.toEngine) (hm : s.cfg.modules.writeHalf = []) :
    exec .sessionEnd s = .next (ending (faultedEngine .noModule 3#32 s.toEngine) s) := by
  have resets : teardownResetsFlash s.toEngine = true := by
    obtain (h | h) | (h | h) := hnor <;> simp [teardownResetsFlash, teardownReady, hs, hir, h]
  have missing : firstMissing (numbered s.cfg [.writeHalf]) = some 3#32 := if_pos hm
  have checked : Raises endSession s.toEngine 0 (faultedEngine .noModule 3#32 s.toEngine) :=
    .get (by
      rw [if_pos resets]
      exact ((resetModules_nor hnor ▸ requireResetAccesses_needs hd) 3#32 missing).bind)
  exact runCommand_allowed_raises hidle (.inr rfl) (Ends.pure () s.toEngine) checked (Nat.zero_le _)

/-- An earlier code stays (60_exceptions.md R190). -/
theorem faultedStatus_eq (code : FaultCode) (st : Status) : faultedStatus code st = { st with
    faulted := true, faultCode := if st.faulted = true then st.faultCode else code } := by
  obtain ⟨_ | _, _⟩ := st <;> rfl

/-- A fault of an idle block, which may be FAULTED. -/
theorem ending_faultedEngine_of_idle (h : s.running = none) (code : FaultCode) (info : Word) :
    ending (faultedEngine code info s.toEngine) s = { s with
      regs := { s.regs with result := info }
      status := { s.status with
        faulted := true, faultCode := if s.status.faulted = true then s.status.faultCode else code } } := by
  rw [ending_of_idle h]
  simp only [faultedEngine, setResult, setRegs, setStatus, faultedStatus_eq]

/-- EXEC_MODULE of a module number above 6 (42_debug_executor.md R134). -/
theorem execModule_badOperand (h : ready length s) (ha : 6 < s.regs.a.toNat) :
    exec .execModule s = .next (ending (faultEntry .badOperand s.regs.a s.toEngine) s) := by
  obtain ⟨-, hfaulted⟩ := h.1
  rw [← faultedEngine_of_not_faulted hfaulted]
  exact runCommand_raises h.1 ((checkClass_irUsing h).beforeRaises (execSelectedModule_raises ha)) (Nat.zero_le _)

end

/-- Settles O42: EXEC_MODULE's own faults, and the check of modules of each command. -/
theorem executorFaults : Obligations.ExecutorFaults := by
  refine ⟨fun length s h => ⟨execModule_badOperand h, fun m => execModule_needsModules h, ?_, ?_⟩, ?_⟩
  · rintro m words v run waits c a script hid hm hw rfl hl hvector hlast hserved hwaits hc ha hout hs hf
    obtain ⟨-, hfaulted⟩ := h.1
    have left := runModule_fails_accesses hm hw (serviceAccesses_leavesModule (length := length)
      (e := restarted s.toEngine) hl (staysIn_of_termination rfl hvector hlast) hserved hwaits hc hw ha hout
      (hs.trans (List.append_assoc ..)))
    refine (runCommand_fails h (execSelectedModule_fails hid left) hf).trans ?_
    exact congrArg (fun e => Host.Outcome.next (ending e s)) (faultedEngine_of_not_faulted
      (e := setVregs _ (afterScript length script (restarted s.toEngine))) hfaulted _ _)
  · rintro readWord writeWord readHalf writeHalf rfl rfl rfl rfl
    refine ⟨pracc_needsModules h, fun hd => ⟨mem_needsModules h hd, ?probe, fun hnor => ⟨fun i => ?nor, ?reset⟩,
      flashBypass_needsModules h hd, spiChange_needsModules h hd, fun hvalid hs hl => ⟨?backup, fun i hi => ?area⟩⟩⟩
    case probe => exact numbered_probeModules .. ▸ flashProbe_needsModules h hd
    case nor => exact flashChange_needsModules h hd (changeable_nor hnor)
    case reset => exact flashResetRead_needsModules h hd hnor
    case backup => exact areaBackup_needsModules h hd hvalid hs hl
    case area =>
      exact ⟨fun hnor => areaChange_needsModules h hd hvalid hs hl (changeable_nor hnor) hi,
        fun hspi => areaChange_needsModules h hd hvalid hs hl (changeable_spi hspi) hi⟩
  · intro length s hidle hs hir hd hnor hm
    exact (sessionEnd_noModule hidle hs hir hd hnor hm).trans (congrArg _ (ending_faultedEngine_of_idle hidle _ _))

end Sys2Proof.Machine
end

section
/-!
The block table (43_flash_probe.md R156), and the commands that select a descriptor or an area without a probe
(R157-R159).
-/

namespace Sys2Proof.Machine

/-! ## The block table (43_flash_probe.md R156) -/

theorem regionBlocks_length (size : Word) (count : Nat) (a : Word) : (regionBlocks size count a).1.length = count := by
  induction count generalizing a with
  | zero => rfl
  | succ count ih => exact congrArg (· + 1) (ih (a + size))

/-- The address of a block, from one block later. -/
theorem add_succ_mul (a size : Word) (n : Nat) :
    a + size + BitVec.ofNat 32 n * size = a + BitVec.ofNat 32 (n + 1) * size := by
  rw [BitVec.ofNat_add, BitVec.add_mul, BitVec.one_mul, BitVec.add_assoc, BitVec.add_comm size]

theorem regionBlocks_end (size : Word) (count : Nat) (a : Word) :
    (regionBlocks size count a).2 = a + BitVec.ofNat 32 count * size := by
  induction count generalizing a with
  | zero => simp [regionBlocks]
  | succ count ih => exact (ih (a + size)).trans (add_succ_mul a size count)

theorem regionBlocks_getElem? (size : Word) {count n : Nat} (a : Word) (h : n < count) :
    (regionBlocks size count a).1[n]? = some (a + BitVec.ofNat 32 n * size) := by
  induction count generalizing a n with
  | zero => exact absurd h (Nat.not_lt_zero n)
  | succ count ih =>
    cases n with
    | zero => simp [regionBlocks]
    | succ n => exact (ih (a + size) (Nat.lt_of_succ_lt_succ h)).trans (congrArg some (add_succ_mul a size n))

/-- The regions after the first are walked from its end. -/
theorem walkRegions_cons (r : Region) (rs : List Region) (base : Word) :
    walkRegions (r :: rs) base
      = (regionBlocks r.size r.count.toNat base).1 ++ walkRegions rs (base + r.count * r.size) := by
  rw [walkRegions, regionBlocks_end, BitVec.ofNat_toNat, BitVec.setWidth_eq]

theorem walkRegions_length (rs : List Region) (base : Word) :
    (walkRegions rs base).length = (rs.map fun r => r.count.toNat).sum := by
  induction rs generalizing base with
  | nil => rfl
  | cons r rs ih =>
    rw [walkRegions_cons, List.length_append, regionBlocks_length, ih, List.map_cons, List.sum_cons]

/-- Settles O46: the walk by its first region. -/
theorem blockTable : Obligations.BlockTable := by
  refine ⟨walkRegions_length, fun r rs base n => ⟨fun hn => ?_, ?_⟩⟩
  · rw [walkRegions_cons, List.getElem?_append_left (by rwa [regionBlocks_length])]
    exact regionBlocks_getElem? r.size base hn
  · rw [walkRegions_cons, List.getElem?_append_right (by rw [regionBlocks_length]; exact Nat.le_add_right ..),
      regionBlocks_length, Nat.add_sub_cancel_left]

/-! ## A descriptor selected (43_flash_probe.md R155, R157) -/

theorem windowBase_eq_getD_of_index {p : Params} {idcode : Word} {f : Flash} (hi : f.index ≠ none) :
    windowBase p idcode f = f.windowOverride.getD (flashWindowFor p idcode f.size) := by
  cases ho : f.windowOverride with
  | none => exact windowBase_of_index ho hi
  | some o => rw [windowBase, ho]; rfl

theorem windowBase_eq_getD_of_index_none {p : Params} {idcode : Word} {f : Flash} (hi : f.index = none) :
    windowBase p idcode f = f.windowOverride.getD p.flashProbeBase := by
  cases ho : f.windowOverride with
  | none => exact windowBase_of_index_none ho hi
  | some o => rw [windowBase, ho]; rfl

/-- The engine with descriptor `k`, whose window begins at `b`. -/
def withFlash (k : Nat) (x : FlashDescriptor) (b : Word) (e : Engine) : Engine :=
  { e with
    flash := { e.flash with
      base := b, cmdType := some x.kind, index := some k, size := x.size
      blockTable := walkRegions x.regions.list b }
    area := { e.area with valid := false } }

theorem selectFlash_eq {k : Nat} {x : FlashDescriptor} {b : Word} {e : Engine} (hx : e.cfg.flashTable[k]? = some x)
    (hb : b = e.flash.windowOverride.getD (flashWindowFor e.cfg e.session.idcode x.size)) :
    selectFlash k x e = withFlash k x b e := by
  have base : windowBase e.cfg e.session.idcode
      { e.flash with index := some k, cmdType := some x.kind, size := x.size } = b :=
    (windowBase_eq_getD_of_index (Option.some_ne_none k)).trans hb.symm
  have table : blockTableOf e.cfg (some k) b = walkRegions x.regions.list b := by
    rw [blockTableOf, regionsOf, hx]
  rw [withFlash, ← table, ← base]
  rfl

theorem forceFlash_ends {e : Engine} {x : FlashDescriptor} (hx : e.cfg.flashTable[e.regs.a.toNat]? = some x) :
    Ends forceFlash e 0 ()
      (setResult (kindTag (some x.kind))
        (setStatus (fun st => { st with unknownFlash := false })
          (setFlash (fun f => { f with vendorId := x.vendor, deviceId := x.device })
            (selectFlash e.regs.a.toNat x e)))) := by
  refine .get ?_
  rw [hx]
  exact (modifyEngine_ends _ _).before ((modifyEngine_ends _ _).before
    ((modifyEngine_ends _ _).before (modifyEngine_ends _ _)))

theorem forceFlash_raises {e : Engine} (hx : e.cfg.flashTable[e.regs.a.toNat]? = none) :
    Raises forceFlash e 0 (faultedEngine .badOperand e.regs.a e) :=
  .get (by rw [hx]; exact raiseFault_raises _ _ e)

/-- Settles O45: the entry that operand A names is selected, or there is none. -/
theorem flashForce : Obligations.FlashForce := by
  refine fun s h => ⟨fun x b hx hb => ?_, fun hout => ?_⟩
  · have base : b = s.flash.windowOverride.getD (flashWindowFor s.cfg s.session.idcode x.size) := by
      rw [hb]
      cases s.flash.windowOverride <;> rfl
    have forced := runCommand_sets (i := .flashForce) h (forceFlash_ends hx)
    rw [selectFlash_eq hx base] at forced
    refine forced.trans ?_
    obtain ⟨_, _, _, kind, _, _⟩ := x
    cases kind <;> rfl
  · exact runCommand_rejects h (Ends.pure () _) (forceFlash_raises (List.getElem?_eq_none hout))

/-! ## The areas (43_flash_probe.md R158, R159) -/

section
variable {e : Engine}

theorem namedArea_custom {start length w : Word} (hw : e.flash.windowOverride = some w)
    (hs : e.area.customStart = some start) (hl : e.area.customLength = some length) :
    namedArea e customAreaId = some (start, length) := by
  simp only [namedArea, if_true, hw, hs, hl]

theorem namedArea_custom_eq_none
    (h : e.flash.windowOverride = none ∨ e.area.customStart = none ∨ e.area.customLength = none) :
    namedArea e customAreaId = none := by
  rw [namedArea, if_pos rfl]
  split
  next hw hs hl => simp [hw, hs, hl] at h
  next => rfl

/-- An area of the table: a name that the part's capacity class does not have is the area of length 0. -/
theorem namedArea_table {id : Word} {name : String} (hid : id ≠ customAreaId)
    (hn : e.cfg.areaNames[id.toNat]? = some name) :
    namedArea e id = some ((areaLookup e.cfg e.flash.size name).elim (0#32, 0#32) fun d => (d.start, d.length)) := by
  simp only [namedArea, if_neg hid, hn]
  cases areaLookup e.cfg e.flash.size name <;> rfl

theorem namedArea_eq_none {id : Word} (hid : id ≠ customAreaId) (hn : e.cfg.areaNames.length ≤ id.toNat) :
    namedArea e id = none := by
  simp only [namedArea, if_neg hid, List.getElem?_eq_none hn]

theorem areaLookup_eq_find? (p : Params) (size : Word) (name : String) :
    areaLookup p size name = p.areaTable.find? fun d => decide (d.capacity = size ∧ d.name = name) := by
  simp only [areaLookup, Bool.decide_and]

end

section
variable {s : State}

theorem exec_selectArea {start length : Word} (h : accepting s)
    (ha : namedArea s.toEngine s.regs.a = some (start, length)) :
    exec .selectArea s = .next { s with
      regs := { s.regs with result := length }
      area := { s.area with valid := true, start := start, length := length } } :=
  runCommand_sets h (.get (by
    rw [ha]
    exact (modifyEngine_ends _ _).before (modifyEngine_ends _ _)))

theorem exec_selectArea_badArea (h : accepting s) (ha : namedArea s.toEngine s.regs.a = none) :
    exec .selectArea s = .next { s with
      regs := { s.regs with result := s.regs.a }
      status := { s.status with faulted := true, faultCode := .badArea } } :=
  runCommand_rejects h (Ends.pure () _) (.get (by
    rw [ha]
    exact raiseFault_raises _ _ _))

end

/-- Settles O47: SELECT_AREA by what operand A names. -/
theorem areaSelection : Obligations.AreaSelection := by
  intro s h
  refine ⟨runCommand_sets h (.get (modifyEngine_ends _ _)), fun w start length ha hw hs hl => ?custom,
    fun ha hnone => ?noCustom, fun name d ha hn hd => ?named, fun name ha hn hd => ?notInClass, fun ha hout => ?noName⟩
  case custom => exact exec_selectArea h (ha.symm ▸ namedArea_custom hw hs hl)
  case noCustom => exact exec_selectArea_badArea h (ha.symm ▸ namedArea_custom_eq_none hnone)
  case named =>
    refine exec_selectArea h ((namedArea_table ha hn).trans ?_)
    rw [areaLookup_eq_find?, hd]
    rfl
  case notInClass =>
    refine exec_selectArea h ((namedArea_table ha hn).trans ?_)
    rw [areaLookup_eq_find?, hd]
    rfl
  case noName => exact exec_selectArea_badArea h (namedArea_eq_none ha hout)

end Sys2Proof.Machine
end

section
/-!
FLASH_PROBE (43_flash_probe.md R147-R154, 45_flash_spi.md R176): each trial with the accesses it issues, the trials one
after the other until a lookup finds an entry, and what the command records of the search.
-/

namespace Sys2Proof.Machine

/-! ## The trials -/

/-- Accesses whose value is only handed on. -/
theorem Issues.yielding {α β : Type} {op : Op α} {length : Nat} {e : Engine} {xs : List (Access × Word)} {x : α}
    (h : Issues op length e xs x (afterBus length xs e)) (f : α → β) :
    Issues (op >>= fun a => pure (f a)) length e xs (f x) (afterBus length xs e) :=
  (Issues.step h (.done length (f x) _)).congr (List.append_nil xs) rfl

/-- What a trial depends on: the accesses before it in a probe that began at `e0` change none of it. -/
structure ProbesAs (e0 : Engine) (base : Word) (e : Engine) : Prop where
  cfg : e.cfg = e0.cfg
  session : e.session = e0.session
  base : e.flash.base = base

theorem ProbesAs.afterBus {e0 e : Engine} {base : Word} (h : ProbesAs e0 base e) (length : Nat)
    (items : List (Access × Word)) : ProbesAs e0 base (afterBus length items e) :=
  ⟨h.cfg, h.session, h.base⟩

/-- The two reads of the sub-IDs (43_flash_probe.md R153). -/
def subIdItems (e : Engine) (base : Word) (r : IdReplies) : List (Access × Word) :=
  [(.read .half (base + e.cfg.nor.subHigh), r.subHigh), (.read .half (base + e.cfg.nor.subLow), r.subLow)]

/-- The IDs with the colliding pairs corrected (43_flash_probe.md R153, R154). -/
def correctedIds (e : Engine) (base : Word) (r : IdReplies) : Half × Half :=
  if spansionPair (readIdsAt e base r) = true then (0x017E#16, subIdAt e base r)
  else if winbondPair (readIdsAt e base r) = true then ((readIdsAt e base r).1, subIdAt e base r)
  else readIdsAt e base r

/-- The reads that correct them. -/
def correctingItems (e : Engine) (base : Word) (r : IdReplies) : List (Access × Word) :=
  if spansionPair (readIdsAt e base r) = true ∨ winbondPair (readIdsAt e base r) = true then subIdItems e base r else []

theorem amdTrial_eq (e : Engine) (base : Word) (t : AmdCommands) (r : IdReplies) :
    amdTrial e base t r = (correctedIds e base r,
      [cycle (base + (t.unlock1Offset <<< 1)) t.unlock1, cycle (base + (t.unlock2Offset <<< 1)) t.unlock2]
        ++ ([cycle (base + (t.unlock1Offset <<< 1)) t.autoselect]
          ++ (idItems e base r ++ (correctingItems e base r ++ [cycle base t.reset])))) := by
  simp only [amdTrial, correctedIds, correctingItems, subIdItems, List.append_assoc, List.cons_append, List.nil_append]

theorem bscTrial_eq (e : Engine) (base : Word) (r : IdReplies) :
    bscTrial e base r = (readIdsAt e base r,
      [cycle base e.cfg.bsc.readId] ++ (idItems e base r ++ [cycle base e.cfg.bsc.readArray])) := by
  rw [bscTrial, List.append_assoc]

theorem spiTrial_eq (e : Engine) (free rdid : Word) :
    spiTrial e free rdid = (idsOfRdid rdid,
      startItems (sessionLayout e) (sessionLayout e).code.rdid free
        ++ [(.read .word (sessionLayout e).dataReg, rdid)]) := by
  rw [spiTrial, idsOfRdid, BitVec.setWidth_eq_append (by decide)]
  rfl

theorem spansionPair_iff (ids : Half × Half) : spansionPair ids = true ↔ ids.1 = 0x0001#16 ∧ ids.2 = 0x227E#16 := by
  rw [spansionPair, decide_eq_true_iff, Prod.ext_iff]

theorem winbondPair_iff (ids : Half × Half) :
    winbondPair ids = true ↔ ids.1.extractLsb' 0 8 = 0xDA#8 ∧ ids.2.extractLsb' 0 8 = 0x7E#8 := by
  rw [winbondPair, decide_eq_true_iff]

theorem sessionLayout_congr {e e0 : Engine} (hc : e.cfg = e0.cfg) (hs : e.session = e0.session) :
    sessionLayout e = sessionLayout e0 := by
  rw [sessionLayout, hc, hs]
  rfl

section
variable {e0 e : Engine} {base : Word} (h : ProbesAs e0 base e) (length : Nat)
include h

theorem readIds_issues (r : IdReplies) :
    Issues readIds length e (idItems e0 base r) (readIdsAt e0 base r) (afterBus length (idItems e0 base r) e) := by
  obtain ⟨hc, -, rfl⟩ := h
  rw [idItems, readIdsAt, ← hc]
  exact .get (.next (norRead_issues length (e.flash.base + e.cfg.nor.vendor) r.vendor e)
    ((norRead_issues length (e.flash.base + e.cfg.nor.device) r.device _).yielding _))

theorem readSubId_issues (r : IdReplies) :
    Issues readSubId length e (subIdItems e0 base r) (subIdAt e0 base r)
      (afterBus length (subIdItems e0 base r) e) := by
  obtain ⟨hc, -, rfl⟩ := h
  rw [subIdItems, subIdAt, ← hc]
  exact .get (.next (norRead_issues length (e.flash.base + e.cfg.nor.subHigh) r.subHigh e)
    ((norRead_issues length (e.flash.base + e.cfg.nor.subLow) r.subLow _).yielding _))

/-- Only the two colliding pairs are read further (43_flash_probe.md R153, R154). -/
theorem disambiguate_issues (r : IdReplies) :
    Issues (disambiguate (readIdsAt e0 base r).1 (readIdsAt e0 base r).2) length e (correctingItems e0 base r)
      (correctedIds e0 base r) (afterBus length (correctingItems e0 base r) e) := by
  have corrected (v : Half) : Issues (do let d ← readSubId; pure (v, d)) length e (subIdItems e0 base r)
      (v, subIdAt e0 base r) (afterBus length (subIdItems e0 base r) e) :=
    (readSubId_issues h length r).yielding _
  rw [disambiguate, correctingItems, correctedIds]
  simp only [← spansionPair_iff, ← winbondPair_iff]
  by_cases hs : spansionPair (readIdsAt e0 base r) = true
  · rw [if_pos hs, if_pos hs, if_pos (.inl hs)]
    exact corrected _
  by_cases hw : winbondPair (readIdsAt e0 base r) = true
  · rw [if_neg hs, if_neg hs, if_pos hw, if_pos hw, if_pos (.inr hw)]
    exact corrected _
  · rw [if_neg hs, if_neg hs, if_neg hw, if_neg hw, if_neg (not_or.mpr ⟨hs, hw⟩), afterBus_nil]
    exact .done length _ _

theorem trialAmd_issues (t : AmdCommands) (r : IdReplies) :
    Issues (trialAmd t) length e (amdTrial e0 base t r).2 (amdTrial e0 base t r).1
      (afterBus length (amdTrial e0 base t r).2 e) := by
  rw [amdTrial_eq]
  obtain rfl := h.base
  exact .next (amdUnlock_issues length t e) (.next (amdAutoselect_issues length t _)
    (.next (readIds_issues ((h.afterBus ..).afterBus ..) length r)
      (.next (disambiguate_issues (((h.afterBus ..).afterBus ..).afterBus ..) length r)
        ((amdReset_issues length t _).yielding _))))

theorem trialBsc_issues (r : IdReplies) :
    Issues trialBsc length e (bscTrial e0 base r).2 (bscTrial e0 base r).1
      (afterBus length (bscTrial e0 base r).2 e) := by
  rw [bscTrial_eq, ← h.cfg]
  obtain rfl := h.base
  exact .next (bscReadId_issues length e) (.next (readIds_issues (h.afterBus ..) length r)
    ((bscReadArray_issues length _).yielding _))

theorem trialSpi_issues {free : Word} (rdid : Word) (hl : e0.session.spiLayout ≠ none)
    (hfree : free.getLsbD (sessionLayout e0).busyBit = false) :
    Issues trialSpi length e (spiTrial e0 free rdid).2 (spiTrial e0 free rdid).1
      (afterBus length (spiTrial e0 free rdid).2 e) := by
  rw [← sessionLayout_congr h.cfg h.session] at hfree
  rw [← h.session] at hl
  rw [spiTrial_eq, ← sessionLayout_congr h.cfg h.session]
  exact withSpiLayout_issues hl ((spiQuery_issues length (sessionLayout e) .rdid free rdid e hfree).yielding _)

end

/-! ## The search -/

/-- What the target answers the reads of a probe with. -/
structure ProbeReplies where
  amd : IdReplies
  sst : IdReplies
  bsc : IdReplies
  free : Word
  rdid : Word

/-- What a trial finds, and the accesses it issues. -/
def trialResult (e : Engine) (base : Word) (r : ProbeReplies) : Trial → (Half × Half) × List (Access × Word)
  | .amd => amdTrial e base e.cfg.amd r.amd
  | .sst => amdTrial e base e.cfg.sst r.sst
  | .bscScs => bscTrial e base r.bsc
  | .spi => spiTrial e r.free r.rdid

/-- Whether a trial is run when its turn comes: the SPI trial only with a layout (43_flash_probe.md R151). -/
def isTried (e : Engine) (t : Trial) : Bool :=
  decide ¬(t = .spi ∧ e.session.spiLayout = none)

/-- The results of the trials that are run, in order. -/
def triedResults (e : Engine) (base : Word) (r : ProbeReplies) (ts : List Trial) :
    List ((Half × Half) × List (Access × Word)) :=
  (ts.filter (isTried e)).map (trialResult e base r)

theorem isTried_iff {e : Engine} {t : Trial} : isTried e t = true ↔ ¬(t = .spi ∧ e.session.spiLayout = none) :=
  decide_eq_true_iff

theorem triedResults_cons {e : Engine} {t : Trial} (ht : isTried e t = true) (base : Word) (r : ProbeReplies)
    (rest : List Trial) :
    triedResults e base r (t :: rest) = trialResult e base r t :: triedResults e base r rest := by
  rw [triedResults, List.filter_cons_of_pos ht, List.map_cons, triedResults]

theorem triedResults_cons_of_not {e : Engine} {t : Trial} (ht : ¬isTried e t = true) (base : Word) (r : ProbeReplies)
    (rest : List Trial) : triedResults e base r (t :: rest) = triedResults e base r rest := by
  rw [triedResults, List.filter_cons_of_neg ht, triedResults]

theorem triedResults_trialOrder (e : Engine) (base : Word) (r : ProbeReplies) :
    triedResults e base r trialOrder = probeTrials e base r.amd r.sst r.bsc r.free r.rdid := by
  by_cases h : e.session.spiLayout = none <;>
    simp [triedResults, trialOrder, isTried, probeTrials, trialResult, h]

/-- The search of the results, from the IDs `ids` on: the IDs of the last result looked up with the entry it finds, and
the accesses up to it (43_flash_probe.md R147). -/
def searchResults (p : Params) : List ((Half × Half) × List (Access × Word)) → Half × Half →
    ((Half × Half) × Option Nat) × List (Access × Word)
  | [], ids => ((ids, none), [])
  | x :: rest, _ =>
      match flashLookup p x.1.1 x.1.2 with
      | some k => ((x.1, some k), x.2)
      | none => ((searchResults p rest x.1).1, x.2 ++ (searchResults p rest x.1).2)

section
variable {p : Params} {x : (Half × Half) × List (Access × Word)} {rest : List ((Half × Half) × List (Access × Word))}

theorem searchResults_hit {k : Nat} (h : flashLookup p x.1.1 x.1.2 = some k) (ids : Half × Half) :
    searchResults p (x :: rest) ids = ((x.1, some k), x.2) := by
  rw [searchResults, h]

theorem searchResults_miss (h : flashLookup p x.1.1 x.1.2 = none) (ids : Half × Half) :
    searchResults p (x :: rest) ids
      = ((searchResults p rest x.1).1, x.2 ++ (searchResults p rest x.1).2) := by
  rw [searchResults, h]

/-- The first result that a lookup finds ends the search. -/
theorem searchResults_found {xs : List ((Half × Half) × List (Access × Word))} {n k : Nat} (hx : xs[n]? = some x)
    (hearlier : ∀ y ∈ xs.take n, flashLookup p y.1.1 y.1.2 = none) (hk : flashLookup p x.1.1 x.1.2 = some k)
    (ids : Half × Half) :
    searchResults p xs ids = ((x.1, some k), (xs.take (n + 1)).flatMap Prod.snd) := by
  induction xs generalizing n ids with
  | nil => nomatch hx
  | cons y rest ih =>
    cases n with
    | zero =>
      obtain rfl := Option.some.inj hx
      rw [searchResults_hit hk, List.take_succ_cons, List.take_zero, List.flatMap_singleton]
    | succ n =>
      rw [List.take_succ_cons] at hearlier
      rw [searchResults_miss (hearlier y (List.mem_cons_self ..)),
        ih hx (fun z hz => hearlier z (List.mem_cons_of_mem _ hz)), List.take_succ_cons, List.flatMap_cons]

/-- When no result is found the search ends with the last one. -/
theorem searchResults_unknown {xs : List ((Half × Half) × List (Access × Word))} (hx : xs.getLast? = some x)
    (hnone : ∀ y ∈ xs, flashLookup p y.1.1 y.1.2 = none) (ids : Half × Half) :
    searchResults p xs ids = ((x.1, none), xs.flatMap Prod.snd) := by
  induction xs generalizing ids with
  | nil => nomatch hx
  | cons y rest ih =>
    rw [searchResults_miss (hnone y (List.mem_cons_self ..)), List.flatMap_cons]
    cases rest with
    | nil =>
      obtain rfl : y = x := Option.some.inj hx
      rfl
    | cons z rest => rw [ih hx (fun w hw => hnone w (List.mem_cons_of_mem _ hw))]

end

section
variable {e0 e : Engine} {base : Word} {r : ProbeReplies} {length : Nat}

theorem runTrial_issues (h : ProbesAs e0 base e) (hfree : r.free.getLsbD (sessionLayout e0).busyBit = false)
    {t : Trial} (ht : isTried e0 t = true) :
    Issues (runTrial t) length e (trialResult e0 base r t).2 (trialResult e0 base r t).1
      (afterBus length (trialResult e0 base r t).2 e) := by
  refine .get ?_
  rw [h.cfg]
  cases t with
  | amd => exact trialAmd_issues h length e0.cfg.amd r.amd
  | sst => exact trialAmd_issues h length e0.cfg.sst r.sst
  | bscScs => exact trialBsc_issues h length r.bsc
  | spi => exact trialSpi_issues h length r.rdid (fun hl => isTried_iff.mp ht ⟨rfl, hl⟩) hfree

/-- The trials issue what the search of their results does. -/
theorem runTrials_issues (h : ProbesAs e0 base e) (hfree : r.free.getLsbD (sessionLayout e0).busyBit = false)
    (ts : List Trial) (ids : Half × Half) :
    Issues (runTrials ts ids) length e (searchResults e0.cfg (triedResults e0 base r ts) ids).2
      (searchResults e0.cfg (triedResults e0 base r ts) ids).1
      (afterBus length (searchResults e0.cfg (triedResults e0 base r ts) ids).2 e) := by
  induction ts generalizing e ids with
  | nil => exact (Issues.done length _ e).congr rfl (afterBus_nil length e).symm
  | cons t rest ih =>
    refine .get ?_
    rw [h.session, h.cfg]
    by_cases ht : isTried e0 t = true
    · rw [if_neg (isTried_iff.mp ht), triedResults_cons ht]
      cases hk : flashLookup e0.cfg (trialResult e0 base r t).1.1 (trialResult e0 base r t).1.2 with
      | some k =>
        rw [searchResults_hit hk]
        refine ((runTrial_issues h hfree ht).step ?_).congr (List.append_nil _) rfl
        rw [hk]
        exact .done length _ _
      | none =>
        rw [searchResults_miss hk]
        refine (runTrial_issues h hfree ht).next ?_
        rw [hk]
        exact ih (h.afterBus ..) _
    · rw [if_pos (not_not.mp fun hs => ht (isTried_iff.mpr hs)), triedResults_cons_of_not ht]
      exact ih h ids

end

/-! ## The command -/

/-- The engine with no descriptor, whose window begins at `base`. -/
def withoutFlash (base : Word) (e : Engine) : Engine :=
  { e with
    flash := { e.flash with base := base, cmdType := none, index := none, size := 0#32, blockTable := [] }
    area := { e.area with valid := false } }

theorem clearFlash_eq {e : Engine} {base : Word} (hb : base = e.flash.windowOverride.getD e.cfg.flashProbeBase) :
    clearFlash e = withoutFlash base e := by
  rw [hb, ← windowBase_eq_getD_of_index_none (p := e.cfg) (idcode := e.session.idcode) (f := { e.flash with
    index := none, size := 0#32, cmdType := none, blockTable := [] }) rfl]
  rfl

/-- The IDs a probe reports, in the flash record. -/
def withIds (ids : Half × Half) (e : Engine) : Engine :=
  setFlash (fun f => { f with vendorId := ids.1, deviceId := ids.2 }) e

theorem recordProbe_some {k : Nat} {x : FlashDescriptor} {e : Engine} (hx : e.cfg.flashTable[k]? = some x) :
    recordProbe (some k) e = setStatus (fun st => { st with unknownFlash := false }) (selectFlash k x e) := by
  simp only [recordProbe, hx]

theorem recordProbe_selects (e : Engine) {k : Nat} {x : FlashDescriptor} {b : Word}
    (hx : e.cfg.flashTable[k]? = some x)
    (hb : b = e.flash.windowOverride.getD (flashWindowFor e.cfg e.session.idcode x.size)) :
    recordProbe (some k) e = setStatus (fun st => { st with unknownFlash := false }) (withFlash k x b e) := by
  rw [recordProbe_some hx, selectFlash_eq hx hb]

theorem recordProbe_unaccessed (found : Option Nat) (e : Engine) :
    (recordProbe found e).cable = e.cable ∧ (recordProbe found e).tap = e.tap ∧ (recordProbe found e).cfg = e.cfg
      ∧ (recordProbe found e).session = e.session := by
  cases found with
  | none => exact ⟨rfl, rfl, rfl, rfl⟩
  | some k =>
    cases hx : e.cfg.flashTable[k]? with
    | none => simp [recordProbe, hx]
    | some x =>
      rw [recordProbe_some hx]
      exact ⟨rfl, rfl, rfl, rfl⟩

/-- A probe whose trials end with the IDs and the entry `x`, along `items`. -/
theorem probeFlash_issues {e : Engine} {length : Nat} {items : List (Access × Word)} {x : (Half × Half) × Option Nat}
    (h : Issues (runTrials trialOrder (0#16, 0#16)) length (clearFlash e) items x
      (afterBus length items (clearFlash e))) :
    Issues probeFlash length e items ()
      (setResult (x.1.2 ++ x.1.1) (recordProbe x.2 (withIds x.1 (afterBus length items (clearFlash e))))) := by
  refine .after (.get (requireAccesses_issues length _ e)) (.modify ⟨rfl, rfl, rfl, rfl⟩
    ((h.step ?_).congr (List.append_nil _) rfl))
  exact .modify (g := withIds x.1) ⟨rfl, rfl, rfl, rfl⟩
    (.modify (recordProbe_unaccessed x.2 _) (.last (setResult (x.1.2 ++ x.1.1)) _))

/-- FLASH_PROBE by what the search of its trials' results ends with. -/
theorem exec_flashProbe {length : Nat} {s : State} {base : Word} {r : ProbeReplies}
    {trials : List ((Half × Half) × List (Access × Word))} {x : (Half × Half) × Option Nat}
    {items : List (Access × Word)} (h : ready length s)
    (hbase : base = s.flash.windowOverride.getD s.cfg.flashProbeBase)
    (hfree : r.free.getLsbD (sessionLayout s.toEngine).busyBit = false)
    (htrials : trials = probeTrials s.toEngine base r.amd r.sst r.bsc r.free r.rdid)
    (hsearch : searchResults s.cfg trials (0#16, 0#16) = (x, items)) (hs : serves length items s) :
    exec .flashProbe s = .next (ending (setResult (x.1.2 ++ x.1.1)
      (recordProbe x.2 (withIds x.1 (withoutFlash base (afterBus length items s.toEngine))))) s) := by
  have cleared : ProbesAs s.toEngine base (withoutFlash base s.toEngine) := ⟨rfl, rfl, rfl⟩
  have run := runTrials_issues (length := length) cleared hfree trialOrder (0#16, 0#16)
  rw [triedResults_trialOrder, ← htrials, hsearch, ← clearFlash_eq hbase] at run
  have probed := runCommand_issues (i := .flashProbe) h (probeFlash_issues run) hs
  rw [clearFlash_eq hbase] at probed
  exact probed

/-- Settles O43: the search ends with the `n`-th result, and its entry is selected. -/
theorem probeFound : Obligations.ProbeFound := by
  intro length s amd sst bsc free rdid base b trials found n k x items h hbase hfree htrials hn hearlier hk hx hitems
    hserves hb
  have probeBase : base = s.flash.windowOverride.getD s.cfg.flashProbeBase := by
    rw [hbase]
    cases s.flash.windowOverride <;> rfl
  have window : b = s.flash.windowOverride.getD (flashWindowFor s.cfg s.session.idcode x.size) := by
    rw [hb]
    cases s.flash.windowOverride <;> rfl
  refine (exec_flashProbe (r := ⟨amd, sst, bsc, free, rdid⟩) h probeBase hfree htrials
    (hitems ▸ searchResults_found hn hearlier hk _) hserves).trans ?_
  rw [recordProbe_selects (withIds found.1 (withoutFlash base (afterBus length items s.toEngine))) hx window]
  rfl

/-- Settles O44: the search ends with the last result, and no entry is selected. -/
theorem probeUnknown : Obligations.ProbeUnknown := by
  intro length s amd sst bsc free rdid base trials last items h hbase hfree htrials hlast hnone hitems hserves
  have probeBase : base = s.flash.windowOverride.getD s.cfg.flashProbeBase := by
    rw [hbase]
    cases s.flash.windowOverride <;> rfl
  exact exec_flashProbe (r := ⟨amd, sst, bsc, free, rdid⟩) h probeBase hfree htrials
    (hitems ▸ searchResults_unknown hlast hnone _) hserves

end Sys2Proof.Machine
end

section
/-!
The preconditions of the flash commands (44_flash_parallel.md R160): the faults of items 1 to 4, and the checks that
pass under the DMA strategy.
-/

namespace Sys2Proof.Machine

/-! ## Preconditions that fail -/

section
variable {e : Engine}

theorem requireFlash_raises (h : e.flash.cmdType = none) :
    Raises requireFlash e 0 (faultedEngine .noFlash e.regs.cmd e) :=
  .get (by rw [if_pos h]; exact raiseWithCommand_raises _ e)

theorem requireBypassPart_raises (h : ¬ amdStyle e) :
    Raises requireBypassPart e 0 (faultedEngine .unsupported e.regs.cmd e) :=
  .get (by rw [if_neg h]; exact raiseWithCommand_raises _ e)

theorem requireSpiPart_raises (h : e.flash.cmdType ≠ some .spi) :
    Raises requireSpiPart e 0 (faultedEngine .unsupported e.regs.cmd e) :=
  .get (by rw [if_neg h]; exact raiseWithCommand_raises _ e)

theorem requireSpiLayout_raises (hk : e.flash.cmdType = some .spi) (hl : e.session.spiLayout = none) :
    Raises requireSpiLayout e 0 (faultedEngine .unsupported e.regs.cmd e) :=
  .get (by rw [if_pos ⟨hk, hl⟩]; exact raiseWithCommand_raises _ e)

end

/-- Each of the six flash commands first asks for a known part. -/
theorem exec_flashCommand {i : Instr} (h : i ∈ [Instr.flashEraseBlock, .flashProgramWord, .flashResetRead,
      .flashBypassEnter, .flashBypassExit, .spiChipErase]) :
    ∃ rest : Op Unit, ∀ s, exec i s = runCommand i .irUsing (do requireFlash; rest) s := by
  cases i with
  | flashEraseBlock | flashProgramWord | flashResetRead | flashBypassEnter | flashBypassExit | spiChipErase =>
    exact ⟨_, fun _ => rfl⟩
  | _ => exact absurd h (by decide)

/-- A known part that the rest of a flash command's checks does not support. -/
theorem exec_flash_unsupported {length : Nat} {s : State} {i : Instr} {rest : Op Unit} (h : ready length s)
    (hexec : exec i s = runCommand i .irUsing (do requireFlash; rest) s) (hpart : s.flash.cmdType ≠ none)
    (hrest : Raises rest s.toEngine 0 (faultedEngine .unsupported s.regs.cmd s.toEngine)) :
    exec i s = .next { s with
      regs := { s.regs with result := s.regs.cmd }
      status := { s.status with faulted := true, faultCode := .unsupported } } :=
  hexec.trans (runCommand_rejects h.1 (checkClass_irUsing h) ((requireFlash_ends hpart).beforeRaises hrest))

/-- Settles O18: each clause is the first check of R160 that fails. -/
theorem flashPreconditions : Obligations.FlashPreconditions := by
  refine fun length s h => ⟨fun hnone i hi => ?noFlash, fun hpart hamd hsst => ?bypass, fun hpart hspi => ?chipErase,
    fun hspi hlayout => ?layout⟩
  case noFlash =>
    obtain ⟨rest, hexec⟩ := exec_flashCommand hi
    exact (hexec s).trans (runCommand_rejects h.1 (checkClass_irUsing h) (requireFlash_raises hnone).bind)
  case bypass =>
    have check : Raises requireBypassPart s.toEngine 0 _ := requireBypassPart_raises (not_or.mpr ⟨hamd, hsst⟩)
    simp only [List.forall_mem_cons]
    exact ⟨exec_flash_unsupported h rfl hpart check.bind, exec_flash_unsupported h rfl hpart check.bind,
      List.forall_mem_nil _⟩
  case chipErase => exact exec_flash_unsupported h rfl hpart (requireSpiPart_raises hspi).bind
  case layout =>
    have hpart : s.flash.cmdType ≠ none := by simp [hspi]
    have check : Raises requireSpiLayout s.toEngine 0 _ := requireSpiLayout_raises hspi hlayout
    simp only [List.forall_mem_cons]
    exact ⟨exec_flash_unsupported h rfl hpart check.bind, exec_flash_unsupported h rfl hpart check.bind,
      exec_flash_unsupported h rfl hpart check.bind,
      exec_flash_unsupported h rfl hpart ((requireSpiPart_ends hspi).beforeRaises check.bind),
      List.forall_mem_nil _⟩

/-! ## Preconditions that pass -/

section
variable {length : Nat} {e e' : Engine} {items xs ys : List (Access × Word)} {op : Op Unit} {ms : List ModuleId}

/-- A check that passes, before accesses. -/
theorem Issues.checked {α β : Type} {op : Op α} {f : α → Op β} {x : α} {y : β} (h : Ends op e 0 x e)
    (k : Issues (f x) length e items y e') : Issues (op >>= f) length e items y e' :=
  .after (fun _ _ _ => h) k

/-- The accesses an operation issues, by another name. -/
theorem Issues.listed {α : Type} {op : Op α} {x : α} (h : Issues op length e xs x (afterBus length xs e'))
    (hx : xs = ys) : Issues op length e ys x (afterBus length ys e') :=
  hx ▸ h

theorem checkedChange_issues (hpart : Changeable e ms) (k : Issues op length e items () e') :
    Issues (do requireFlash; requireSpiLayout; requireChangeAccesses; op) length e items () e' :=
  .checked (requireFlash_ends hpart.part) (.checked (requireSpiLayout_ends hpart.layout)
    (.after (requireChangeAccesses_issues length e) k))

theorem checkedReset_issues (hpart : Changeable e ms) (k : Issues op length e items () e') :
    Issues (do requireFlash; requireSpiLayout; requireResetAccesses; op) length e items () e' :=
  .checked (requireFlash_ends hpart.part) (.checked (requireSpiLayout_ends hpart.layout)
    (.after (requireResetAccesses_issues length e) k))

theorem requireBypassAccesses_issues (length : Nat) (entering : Bool) (e : Engine) :
    Issues (requireBypassAccesses entering) length e [] () e := by
  refine .get ?_
  split
  · exact .done length () e
  · exact requireAccesses_issues length _ e

theorem checkedBypass_issues {entering : Bool} (hamd : amdStyle e) (k : Issues op length e items () e') :
    Issues (do requireFlash; requireBypassPart; requireBypassAccesses entering; op) length e items () e' :=
  .checked (requireFlash_ends (changeable_nor (.inl hamd)).part) (.checked (requireBypassPart_ends hamd)
    (.after (requireBypassAccesses_issues length entering e) k))

end

end Sys2Proof.Machine
end

section
/-!
Reset-to-read, bypass entry and exit (44_flash_parallel.md R168-R170), and FLASH_ERASE_BLOCK of every family (R161-R164,
45_flash_spi.md R174), through DMA.
-/

namespace Sys2Proof.Machine

/-! ## Read mode and bypass -/

/-- FLASH_RESET_READ of an SPI part issues nothing, so it runs under either strategy (45_flash_spi.md R178). -/
theorem flashResetRead_spi_ends {e : Engine} (h : e.flash.cmdType = some .spi) : Ends flashResetRead e 0 () e :=
  .get (by rw [h]; exact Ends.pure () e)

theorem requireResetAccesses_spi_ends {e : Engine} (h : e.flash.cmdType = some .spi) :
    Ends requireResetAccesses e 0 () e :=
  .get (by rw [h]; exact requireAccesses_ends (.inr (List.forall_mem_nil _)))

theorem exec_flashResetRead_spi {length : Nat} {s : State} (h : ready length s) (hspi : spiStyle s.toEngine) :
    exec .flashResetRead s = .next s := by
  have hpart := changeable_spi hspi
  have checked : Ends (do requireFlash; requireSpiLayout; requireResetAccesses; flashResetRead) s.toEngine 0 ()
      s.toEngine :=
    (requireFlash_ends hpart.part).before ((requireSpiLayout_ends hpart.layout).before
      ((requireResetAccesses_spi_ends hspi.1).before (flashResetRead_spi_ends hspi.1)))
  exact (runCommand_ends h.1 (checkClass_irUsing h) checked (Nat.zero_le _)).trans
    (congrArg _ (ending_of_idle h.1.1 _))

/-- Settles O51: each command is its sequence, once its checks have passed. -/
theorem readModeAndBypass : Obligations.ReadModeAndBypass := by
  refine fun length s items h => ⟨fun hamd => ⟨?reset, ?enter, ?exit⟩, ?bsc, exec_flashResetRead_spi h⟩
  case reset =>
    rintro rfl hs
    exact runCommand_issues (i := .flashResetRead) h
      (checkedReset_issues (changeable_nor (.inl hamd)) (flashResetRead_amd length _ hamd)) hs
  case enter =>
    rintro rfl hs
    exact runCommand_issues (i := .flashBypassEnter) h (checkedBypass_issues hamd (bypassEnter_issues length _)) hs
  case exit =>
    rintro rfl hs
    exact runCommand_issues (i := .flashBypassExit) h (checkedBypass_issues hamd (bypassExit_issues length _)) hs
  case bsc =>
    rintro hbsc rfl hs
    exact runCommand_issues (i := .flashResetRead) h
      (checkedReset_issues (changeable_nor (.inr hbsc)) (flashResetRead_bsc length _ hbsc)) hs

/-! ## Erase -/

section
variable {e : Engine} {a r1 r2 free : Word}

/-- Outside bypass mode the reset-to-read is its last cycle alone. -/
theorem flashResetRead_amd_off (length : Nat) (hamd : amdStyle e) (hoff : e.flash.bypassActive = false) :
    Issues flashResetRead length e (resetItems e) () (afterBus length (resetItems e) e) := by
  have off : ¬ e.flash.bypassActive = true := by simp [hoff]
  have reset := flashResetRead_amd length e hamd
  rw [exitItems_off off, bypassOff_same off, List.nil_append] at reset
  exact reset

theorem eraseItems_amd (hamd : amdStyle e) :
    eraseItems e a r1 r2 free = unlockItems e (partTable e).eraseSetup
      ++ [offsetItem e (partTable e).unlock1Offset (partTable e).unlock1,
          offsetItem e (partTable e).unlock2Offset (partTable e).unlock2,
          cycle a (partTable e).sectorErase, (.read .half a, r1)]
      ++ resetItems e := by
  rcases hamd with hk | hk <;> simp only [eraseItems, hk]

theorem eraseReady_amd (hamd : amdStyle e) (h : eraseReady e a r1 r2 free) :
    (lane e.cfg.endian a r1).getLsbD e.cfg.nor.amdReady = true := by
  rcases hamd with hk | hk <;> simpa only [eraseReady, hk] using h

/-- The block erase of an AMD-style part: bypass mode is left, the block is erased, and the reset-to-read finds bypass
mode left (44_flash_parallel.md R161-R163). -/
theorem eraseBlock_amd (length : Nat) (hamd : amdStyle e) (h : eraseReady e a r1 r2 free) :
    Issues (eraseBlock a) length e (exitItems e ++ eraseItems e a r1 r2 free) ()
      (afterBus length (exitItems e ++ eraseItems e a r1 r2 free) (bypassOff e)) := by
  have exit := bypassExit_issues length e
  have erase := eraseAmd_issues length a r1 (afterBus length (exitItems e) (bypassOff e)) (eraseReady_amd hamd h)
  have exitErase := eraseByKind_amd hamd (exit.also (sameBus_bypassOff e) erase)
  refine (exitErase.also (sameBus_bypassOff e) (flashResetRead_amd_off length (by exact hamd) rfl)).listed ?_
  rw [eraseItems_amd hamd, List.append_assoc]
  rfl

end

/-- Settles O49: the checks pass, and the erase is that of the part's family. -/
theorem flashErase : Obligations.FlashErase := by
  refine fun length s r1 r2 free items h hready => ⟨?amd, ?others⟩
  case amd =>
    rintro hamd rfl hs
    exact runCommand_issues (i := .flashEraseBlock) h
      (checkedChange_issues (changeable_nor (.inl hamd)) (.get (eraseBlock_amd length hamd hready))) hs
  case others =>
    rintro (hbsc | hspi) rfl hs
    · exact runCommand_issues (i := .flashEraseBlock) h
        (checkedChange_issues (changeable_nor (.inr hbsc)) (.get (eraseBlock_bsc length _ r1 r2 free _ hbsc hready))) hs
    · exact runCommand_issues (i := .flashEraseBlock) h
        (checkedChange_issues (changeable_spi hspi) (.get (eraseBlock_spi length _ r1 r2 free _ hspi hready))) hs

end Sys2Proof.Machine
end

section
/-!
FLASH_PROGRAM_WORD of every family through DMA (44_flash_parallel.md R165-R167, 45_flash_spi.md R175): one half, the two
halves of a word, and what comes before and after them in each family.
-/

namespace Sys2Proof.Machine

section
variable {e : Engine} {a w r r1 r2 free : Word} {x : Half}

/-! ## One half -/

/-- The half is written and read back (44_flash_parallel.md R166). -/
theorem writeHalf_issues (length : Nat) (h : lane e.cfg.endian a r = x) :
    Issues (do
      norWrite a x
      let _ ← pollUntil a (norRead a) fun y => decide (y = x)
      pure ()) length e [cycle a x, (.read .half a, r)] () (afterBus length [cycle a x, (.read .half a, r)] e) :=
  .next (norWrite_issues length a x e)
    ((pollUntil_issues (norRead_issues length a r _) (decide_eq_true h)).yielding fun _ => ())

/-- A half on an AMD-style part, in bypass mode or not. -/
theorem programHalfAmd_issues (length : Nat) (h : lane e.cfg.endian a r = x) :
    Issues (programHalfAmd a x) length e (halfItemsAmd e e.flash.bypassActive a x r) ()
      (afterBus length (halfItemsAmd e e.flash.bypassActive a x r) e) := by
  refine .get (.after (partCommands_issues length e) ?_)
  rw [halfItemsAmd]
  split
  · exact .next (amdBypassProgram_issues length (partTable e) e) (writeHalf_issues length (by exact h))
  · exact (Issues.next (amdUnlock_issues length (partTable e) e)
      (.next (amdProgram_issues length (partTable e) _) (writeHalf_issues length (by exact h)))).listed rfl

/-- A half on an Intel-style part. -/
theorem programHalfBsc_issues (length : Nat) (x : Half)
    (h : (lane e.cfg.endian a r).getLsbD e.cfg.nor.bscReady = true) :
    Issues (programHalfBsc a x) length e (halfItemsBsc e a x r) () (afterBus length (halfItemsBsc e a x r) e) :=
  .next (bscClearStatus_issues length a e) (.next (bscProgramSetup_issues length a _)
    (.next (norWrite_issues length a x _) (waitBscReady_issues length a r _ h)))

/-! ## A word on an AMD-style part (44_flash_parallel.md R165) -/

/-- The engine with the bypass bit as given. -/
def withBypass (b : Bool) (e : Engine) : Engine :=
  setFlash (fun f => { f with bypassActive := b }) e

theorem withBypass_same (e : Engine) : withBypass e.flash.bypassActive e = e := rfl

/-- The AMD/SST branch of a program once bypass mode is as opt_bypass wants it. -/
def programHalves (a : Word) (h : Half × Half) : Op Unit := do
  programHalfAmd a h.1
  programHalfAmd (a + 2#32) h.2
  let f ← getEngine
  if f.flash.bypassActive then pure () else flashResetRead

theorem programWordAmd_eq (a : Word) (h : Half × Half) :
    programWordAmd a h = (do
      let e ← getEngine
      if e.options.bypass then do
        bypassEnter
        programHalves a h
      else programHalves a h) := rfl

/-- What the AMD/SST branch issues once bypass mode is `bypass`. -/
def halvesItems (e : Engine) (bypass : Bool) (a : Word) (h : Half × Half) (r1 r2 : Word) : List (Access × Word) :=
  halfItemsAmd e bypass a h.1 r1 ++ halfItemsAmd e bypass (a + 2#32) h.2 r2 ++ (if bypass then [] else resetItems e)

theorem programItems_amd (hamd : amdStyle e) (bypass : Bool) :
    programItems e bypass a w r1 r2 free = halvesItems e bypass a (programOrder e w) r1 r2 := by
  rcases hamd with hk | hk <;> simp only [programItems, hk, halvesItems]

theorem programReady_amd (hamd : amdStyle e) (h : programReady e a w r1 r2 free) :
    lane e.cfg.endian a r1 = (programOrder e w).1 ∧ lane e.cfg.endian (a + 2#32) r2 = (programOrder e w).2 := by
  rcases hamd with hk | hk <;> simpa only [programReady, hk] using h

/-- In bypass mode the part stays in it, else it is returned to read mode. -/
theorem endProgram_issues (length : Nat) (hamd : amdStyle e) :
    Issues (do
      let f ← getEngine
      if f.flash.bypassActive then pure () else flashResetRead) length e
      (if e.flash.bypassActive then [] else resetItems e) ()
      (afterBus length (if e.flash.bypassActive then [] else resetItems e) e) := by
  refine .get ?_
  split
  next => exact (Issues.done length () e).congr rfl (afterBus_nil length e).symm
  next hoff => exact flashResetRead_amd_off length hamd (Bool.eq_false_iff.mpr hoff)

theorem programHalves_issues {h : Half × Half} (length : Nat) (hamd : amdStyle e)
    (h1 : lane e.cfg.endian a r1 = h.1) (h2 : lane e.cfg.endian (a + 2#32) r2 = h.2) :
    Issues (programHalves a h) length e (halvesItems e e.flash.bypassActive a h r1 r2) ()
      (afterBus length (halvesItems e e.flash.bypassActive a h r1 r2) e) := by
  refine (Issues.next (programHalfAmd_issues length h1)
    (.next (programHalfAmd_issues length (by exact h2)) (endProgram_issues length (by exact hamd)))).listed ?_
  rw [halvesItems, List.append_assoc]
  rfl

/-- What opt_bypass has issued before the halves. -/
def enterFirstItems (e : Engine) : List (Access × Word) :=
  if e.options.bypass = true then enterItems e else []

theorem programWordAmd_issues {h : Half × Half} (length : Nat) (hamd : amdStyle e)
    (h1 : lane e.cfg.endian a r1 = h.1) (h2 : lane e.cfg.endian (a + 2#32) r2 = h.2) :
    Issues (programWordAmd a h) length e (enterFirstItems e ++ halvesItems e (programsInBypass e) a h r1 r2) ()
      (afterBus length (enterFirstItems e ++ halvesItems e (programsInBypass e) a h r1 r2)
        (withBypass (programsInBypass e) e)) := by
  rw [programWordAmd_eq]
  refine .get ?_
  by_cases hopt : e.options.bypass = true
  · have entered : programsInBypass e = true := by simp [programsInBypass, hopt]
    rw [if_pos hopt, enterFirstItems, if_pos hopt, entered]
    exact (bypassEnter_issues length e).also (sameBus_bypassOn e)
      (programHalves_issues (e := afterBus length (enterItems e) (bypassOn e)) length hamd h1 h2)
  · have kept : programsInBypass e = e.flash.bypassActive := by simp [programsInBypass, hopt]
    rw [if_neg hopt, enterFirstItems, if_neg hopt, kept, withBypass_same, List.nil_append]
    exact programHalves_issues length hamd h1 h2

/-! ## A word on the other families -/

theorem programItems_bsc (hbsc : bscStyle e) (bypass : Bool) :
    programItems e bypass a w r1 r2 free = halfItemsBsc e a (programOrder e w).1 r1
      ++ halfItemsBsc e (a + 2#32) (programOrder e w).2 r2 ++ resetItems e := by
  rcases hbsc with hk | hk <;> simp only [programItems, hk]

theorem programReady_bsc (hbsc : bscStyle e) (h : programReady e a w r1 r2 free) :
    (lane e.cfg.endian a r1).getLsbD e.cfg.nor.bscReady = true
      ∧ (lane e.cfg.endian (a + 2#32) r2).getLsbD e.cfg.nor.bscReady = true := by
  rcases hbsc with hk | hk <;> simpa only [programReady, hk] using h

theorem programWordBsc_issues {h : Half × Half} (length : Nat) (hbsc : bscStyle e)
    (h1 : (lane e.cfg.endian a r1).getLsbD e.cfg.nor.bscReady = true)
    (h2 : (lane e.cfg.endian (a + 2#32) r2).getLsbD e.cfg.nor.bscReady = true) :
    Issues (programWordBsc a h) length e
      (halfItemsBsc e a h.1 r1 ++ halfItemsBsc e (a + 2#32) h.2 r2 ++ resetItems e) ()
      (afterBus length (halfItemsBsc e a h.1 r1 ++ halfItemsBsc e (a + 2#32) h.2 r2 ++ resetItems e) e) := by
  rw [List.append_assoc]
  exact .next (programHalfBsc_issues length h.1 h1)
    (.next (programHalfBsc_issues length h.2 (by exact h2)) (flashResetRead_bsc length _ hbsc))

/-! ## By family (44_flash_parallel.md R165, 45_flash_spi.md R175) -/

theorem halvesOf_eq_programOrder (e : Engine) (w : Word) : halvesOf (swapsHalves e) w = programOrder e w := rfl

theorem programWord_amd (length : Nat) (hamd : amdStyle e) (h : programReady e a w r1 r2 free) :
    Issues (programWord a w) length e
      (enterFirstItems e ++ programItems e (programsInBypass e) a w r1 r2 free) ()
      (afterBus length (enterFirstItems e ++ programItems e (programsInBypass e) a w r1 r2 free)
        (withBypass (programsInBypass e) e)) := by
  obtain ⟨h1, h2⟩ := programReady_amd hamd h
  have programmed := programWordAmd_issues length hamd h1 h2
  rw [programItems_amd hamd]
  refine .get ?_
  rw [halvesOf_eq_programOrder]
  rcases hamd with hk | hk <;> simpa only [hk] using programmed

theorem programWord_bsc (length : Nat) (bypass : Bool) (hbsc : bscStyle e) (h : programReady e a w r1 r2 free) :
    Issues (programWord a w) length e (programItems e bypass a w r1 r2 free) ()
      (afterBus length (programItems e bypass a w r1 r2 free) e) := by
  obtain ⟨h1, h2⟩ := programReady_bsc hbsc h
  have programmed := programWordBsc_issues (h := programOrder e w) length hbsc h1 h2
  rw [programItems_bsc hbsc]
  refine .get ?_
  rw [halvesOf_eq_programOrder]
  rcases hbsc with hk | hk <;> simpa only [hk] using programmed

theorem programWord_spi (length : Nat) (bypass : Bool) (hspi : spiStyle e) (h : programReady e a w r1 r2 free) :
    Issues (programWord a w) length e (programItems e bypass a w r1 r2 free) ()
      (afterBus length (programItems e bypass a w r1 r2 free) e) := by
  obtain ⟨hk, hl⟩ := hspi
  simp only [programReady, hk] at h
  obtain ⟨hfree, hwip⟩ := h
  simp only [programItems, hk]
  refine .get ?_
  simp only [hk]
  exact ((programSpi_issues length a w free r1 e hl hfree hwip).step (flashResetRead_spi length _ (by exact hk))).congr
    (List.append_nil _) rfl

end

/-- Settles O50: the checks pass, and the program is that of the part's family. -/
theorem flashProgram : Obligations.FlashProgram := by
  rintro length s r1 r2 free bypass items h hready rfl
  refine ⟨?amd, ?others⟩
  case amd =>
    rintro hamd rfl hs
    exact runCommand_issues (i := .flashProgramWord) h
      (checkedChange_issues (changeable_nor (.inl hamd)) (.get (programWord_amd length hamd hready))) hs
  case others =>
    rintro (hbsc | hspi) rfl hs
    · exact runCommand_issues (i := .flashProgramWord) h
        (checkedChange_issues (changeable_nor (.inr hbsc)) (.get (programWord_bsc length _ hbsc hready))) hs
    · exact runCommand_issues (i := .flashProgramWord) h
        (checkedChange_issues (changeable_spi hspi) (.get (programWord_spi length _ hspi hready))) hs

end Sys2Proof.Machine
end

section
/-!
The SPI commands through DMA: SPI_CHIP_ERASE (45_flash_spi.md R177), the opcodes performed by themselves (R172) and the
Broadcom control words (R171).
-/

namespace Sys2Proof.Machine

/-! ## The operations -/

section
variable {length : Nat} {e e' : Engine} {free : Word}

theorem checkedChipErase_issues {items : List (Access × Word)} {op : Op Unit} (hspi : spiStyle e)
    (k : Issues op length e items () e') :
    Issues (do requireFlash; requireSpiPart; requireSpiLayout; requireChangeAccesses; op) length e items () e' :=
  have hpart := changeable_spi hspi
  .checked (requireFlash_ends hpart.part) (.checked (requireSpiPart_ends hspi.1)
    (.checked (requireSpiLayout_ends hpart.layout) (.after (requireChangeAccesses_issues length e) k)))

/-- WREN, BE and the WIP poll (45_flash_spi.md R177). -/
theorem eraseSpiChip_issues {status : Word} (hl : e.session.spiLayout ≠ none)
    (hfree : free.getLsbD (sessionLayout e).busyBit = false) (hwip : status.getLsbD e.cfg.wipBit = false) :
    Issues eraseSpiChip length e
      (spiChangeItems (sessionLayout e) [] (sessionLayout e).code.be free status) ()
      (afterBus length (spiChangeItems (sessionLayout e) [] (sessionLayout e).code.be free status) e) :=
  withSpiLayout_issues hl
    ((spiBare_issues length (sessionLayout e) .wren free e hfree).next
      ((spiBare_issues length (sessionLayout e) .be free _ hfree).next
        (spiWaitWip_issues length (sessionLayout e) free status _ hfree hwip)))

/-- A transaction of an opcode performed by itself is on the layout of the session. -/
theorem transact_issues {items : List (Access × Word)} {op : SpiOp} {addr data : Option Word}
    (hl : e.session.spiLayout ≠ none)
    (k : Issues (spiTransaction (sessionLayout e) op addr data) length e items () e') :
    Issues (transact op addr data) length e items () e' :=
  withSpiLayout_issues hl (.after (requireAccesses_issues length _ e) k)

/-- The data register's word ends in RESULT. -/
theorem query_issues (op : SpiOp) (v : Word) (hl : e.session.spiLayout ≠ none)
    (hfree : free.getLsbD (sessionLayout e).busyBit = false) :
    Issues (query op) length e
      (startItems (sessionLayout e) (spiCode (sessionLayout e).code op) free
        ++ [(.read .word (sessionLayout e).dataReg, v)]) ()
      (setResult v (afterBus length (startItems (sessionLayout e) (spiCode (sessionLayout e).code op) free
        ++ [(.read .word (sessionLayout e).dataReg, v)]) e)) :=
  withSpiLayout_issues hl (.after (requireAccesses_issues length _ e)
    (((spiQuery_issues length (sessionLayout e) op free v e hfree).step (.last (setResult v) _)).congr
      (List.append_nil _) rfl))

end

/-- A row that is the write of a Broadcom control word, whatever the layout of the session. -/
theorem exec_startBroadcom {length : Nat} {s : State} {i : Instr} {op : SpiOp} (h : ready length s)
    (hexec : exec i s = runCommand i .irUsing (startBroadcom op) s) (items : List (Access × Word))
    (hitems : items = [(.write .word s.cfg.broadcom.ctrlReg
      (s.cfg.broadcom.start ||| spiCode s.cfg.broadcom.code op), 0#32)])
    (hs : serves length items s) : exec i s = .next (ending (afterBus length items s.toEngine) s) := by
  subst hitems
  exact hexec.trans (runCommand_issues h (.get (spiStart_issues length s.cfg.broadcom op _)) hs)

/-! ## The statements -/

/-- Settles O52: the checks pass, and the erase is WREN, BE and one turn of the WIP poll. -/
theorem spiChipErase : Obligations.SpiChipErase := by
  rintro length s _ free status _ h hspi rfl hfree hwip rfl hs
  exact runCommand_issues (i := .spiChipErase) h
    (checkedChipErase_issues hspi (eraseSpiChip_issues hspi.2 hfree hwip)) hs

/-- Settles O53: each opcode is its transaction, with the operands it takes, and each control word its write. -/
theorem spiRows : Obligations.SpiRows := by
  rintro length s _ free v _ h rfl hfree rfl
  simp only [List.forall_mem_cons, List.not_mem_nil, false_implies, implies_true, and_true]
  refine ⟨fun hl => ⟨⟨?wren, ?be, ?se, ?pp⟩, ?rdsr, ?rdid⟩, ?control⟩
  case wren =>
    exact runCommand_issues (i := .spiWren) h (transact_issues hl (spiBare_issues length _ .wren free _ hfree))
  case be =>
    exact runCommand_issues (i := .spiBe) h (transact_issues hl (spiBare_issues length _ .be free _ hfree))
  case se =>
    exact runCommand_issues (i := .spiSe) h
      (.get (transact_issues hl (spiAddressed_issues length _ .se free _ _ hfree)))
  case pp =>
    exact runCommand_issues (i := .spiPp) h
      (.get (transact_issues hl (spiFull_issues length _ .pp free _ s.regs.b _ hfree)))
  case rdsr => exact runCommand_issues (i := .spiRdsr) h (query_issues .rdsr v hl hfree)
  case rdid => exact runCommand_issues (i := .spiRdid) h (query_issues .rdid v hl hfree)
  case control =>
    have row (i : Instr) (op : SpiOp) := exec_startBroadcom (i := i) (op := op) h
    exact ⟨row .spiWrenBroadcomCtrl .wren rfl, row .spiRdsrBroadcomCtrl .rdsr rfl, row .spiSeBroadcomCtrl .se rfl,
      row .spiPpBroadcomCtrl .pp rfl, row .spiRdidBroadcomCtrl .rdid rfl, row .spiBeBroadcomCtrl .be rfl⟩

end Sys2Proof.Machine
end

section
/-!
The checks of the area commands (46_area_ops.md R181) and what the guard lets pass: without an area or a layout a fault,
with nothing to do a skip, without a stream a fault after SKIPPED is cleared.
-/

namespace Sys2Proof.Machine

/-! ## The size guard (46_area_ops.md R181) -/

/-- The engine with SKIPPED as given. -/
def withSkipped (b : Bool) (e : Engine) : Engine :=
  setStatus (fun st => { st with skipped := b }) e

section
variable {length n : Nat} {e e' : Engine} {checks body : Op Unit} {items : List (Access × Word)}

theorem setSkipped_ends (b : Bool) (e : Engine) : Ends (setSkipped b) e 0 () (withSkipped b e) :=
  modifyEngine_ends _ e

/-- With something to do, a fault of the body is taken after SKIPPED is cleared. -/
theorem guardSize_raises (hs : e.flash.size ≠ 0#32) (hl : e.area.length ≠ 0#32) (hc : Ends checks e 0 () e)
    (hb : Raises body (withSkipped false e) n e') : Raises (guardSize checks body) e n e' :=
  fun b hn => (guardSize_runs hs hl b).trans
    ((hc.beforeRaises ((setSkipped_ends false e).beforeRaises hb)) b hn)

/-- With something to do, the body's accesses are issued from the engine with SKIPPED cleared. -/
theorem guardSize_issues (hs : e.flash.size ≠ 0#32) (hl : e.area.length ≠ 0#32) (hc : Issues checks length e [] () e)
    (hb : Issues body length (withSkipped false e) items () e') :
    Issues (guardSize checks body) length e items () e' :=
  have run : Issues (do checks; setSkipped false; body) length e items () e' :=
    .after hc (.modify ⟨rfl, rfl, rfl, rfl⟩ hb)
  fun hd hlen ha b hn => (guardSize_runs hs hl b).trans (run hd hlen ha b hn)

/-! ## The other checks -/

theorem requireArea_raises (h : e.area.valid = false) :
    Raises requireArea e 0 (faultedEngine .badArea e.regs.a e) :=
  .get (by rw [h, if_neg Bool.false_ne_true]; exact raiseFault_raises _ _ e)

theorem requireStream_ends (h : e.streams.ok = true) : Ends requireStream e 0 () e :=
  .get (by rw [if_pos h]; exact Ends.pure () e)

theorem requireStream_raises (h : e.streams.ok = false) :
    Raises requireStream e 0 (faultedEngine .stream e.regs.cmd e) :=
  .get (by rw [h, if_neg Bool.false_ne_true]; exact raiseWithCommand_raises _ e)

/-- With every module present a check of modules passes. -/
theorem requireAccesses_ends_of_modulesPresent (h : modulesPresent e) (uses : List ModuleId) :
    Ends (requireAccesses uses) e 0 () e :=
  requireAccesses_ends (h.imp_right fun present m _ => present m)

/-- With something to do and no stream, the fault comes after SKIPPED is cleared. -/
theorem guardSize_withoutStream (hs : e.flash.size ≠ 0#32) (hl : e.area.length ≠ 0#32) (hc : Ends checks e 0 () e)
    (hclosed : e.streams.ok = false) :
    Raises (guardSize checks (do requireStream; body)) e 0
      (faultedEngine .stream e.regs.cmd (withSkipped false e)) :=
  guardSize_raises hs hl hc (requireStream_raises (e := withSkipped false e) hclosed).bind

end

/-! ## The commands -/

section
variable {length : Nat} {s : State} {i : Instr} {body : Op Unit}

/-- An area command with nothing to do: no fault, but SKIPPED. -/
theorem exec_skips (h : ready length s) (hexec : exec i s = runCommand i .irUsing body s)
    (hb : Ends body s.toEngine 0 () (setResult 0#32 (withSkipped true s.toEngine))) :
    exec i s = .next { s with
      regs := { s.regs with result := 0#32 }
      status := { s.status with skipped := true } } :=
  hexec.trans ((runCommand_ends h.1 (checkClass_irUsing h) hb (Nat.zero_le _)).trans
    (congrArg _ (ending_of_idle h.1.1 _)))

/-- An area command without a stream: the guard has cleared SKIPPED. -/
theorem exec_withoutStream (h : ready length s) (hexec : exec i s = runCommand i .irUsing body s)
    (hb : Raises body s.toEngine 0 (faultedEngine .stream s.regs.cmd (withSkipped false s.toEngine))) :
    exec i s = .next { s with
      regs := { s.regs with result := s.regs.cmd }
      status := { s.status with skipped := false, faulted := true, faultCode := .stream } } :=
  hexec.trans ((runCommand_raises h.1 ((checkClass_irUsing h).beforeRaises hb) (Nat.zero_le _)).trans
    (congrArg _ (ending_faultedEngine (s := { s with toEngine := withSkipped false s.toEngine }) h.1 _ _)))

end

/-- Settles O55: each clause is the first check of R181 that fails. -/
theorem areaChecks : Obligations.AreaChecks := by
  intro length s h
  have rejects {i : Instr} {body : Op Unit} {code : FaultCode} {info : Word}
      (hexec : exec i s = runCommand i .irUsing body s)
      (hb : Raises body s.toEngine 0 (faultedEngine code info s.toEngine)) :=
    hexec.trans (runCommand_rejects h.1 (checkClass_irUsing h) hb)
  simp only [List.forall_mem_cons, List.not_mem_nil, false_implies, implies_true, and_true]
  refine ⟨fun hnone => ?area, fun hvalid hspi hnone => ?layout, fun hvalid hzero => ?skip,
    fun hvalid hs hl hclosed hmodules => ?stream⟩
  case area =>
    have check : Raises requireArea s.toEngine 0 _ := requireArea_raises hnone
    exact ⟨rejects rfl check.bind, rejects rfl check.bind, rejects rfl check.bind⟩
  case layout =>
    have check : Raises requireSpiLayout s.toEngine 0 _ := requireSpiLayout_raises hspi hnone
    have area : Ends requireArea s.toEngine 0 () _ := requireArea_ends hvalid
    exact ⟨rejects rfl (area.beforeRaises check.bind), rejects rfl (area.beforeRaises check.bind)⟩
  case skip =>
    have area : Ends requireArea s.toEngine 0 () _ := requireArea_ends hvalid
    refine ⟨fun _ => exec_skips h rfl (area.before (guardSize_skips hzero)), fun hlayout => ?_, fun hlayout => ?_⟩
    all_goals
      have layout := requireSpiLayout_ends (e := s.toEngine) (hlayout.resolve_left (by decide))
      exact exec_skips h rfl (area.before (layout.before (guardSize_skips hzero)))
  case stream =>
    have area : Ends requireArea s.toEngine 0 () _ := requireArea_ends hvalid
    have change : Ends requireChangeAccesses s.toEngine 0 () s.toEngine :=
      .get (requireAccesses_ends_of_modulesPresent hmodules _)
    exact ⟨fun _ => exec_withoutStream h rfl (area.beforeRaises
        (guardSize_withoutStream hs hl (requireAccesses_ends_of_modulesPresent hmodules _) hclosed)),
      fun hlayout => exec_withoutStream h rfl (area.beforeRaises
        ((requireSpiLayout_ends (hlayout.resolve_left (by decide))).beforeRaises
          (guardSize_withoutStream hs hl change hclosed)))⟩

end Sys2Proof.Machine
end

section
/-!
The area as a list of words or of blocks, through DMA: AREA_BACKUP (46_area_ops.md R182), the blocks of an area (R183)
and AREA_ERASE (R184).
-/

namespace Sys2Proof.Machine

/-! ## The commands through DMA -/

section
variable {length : Nat} {e e' : Engine} {items : List (Access × Word)} {checks op body : Op Unit}

/-- Where accesses begin in an engine that agrees with `e` in all they depend on, further ones may follow. -/
theorem SameBus.continues (h : SameBus e e') (length : Nat) (items : List (Access × Word)) :
    Continues length items e (afterBus length items e') := by
  obtain ⟨hcable, htap, hcfg, hsession⟩ := h
  have hbus := busScript_congr hcfg hsession items
  exact ⟨by simp only [afterBus_cable, hbus, hcable, htap], by simp only [afterBus_tap, hbus, htap], hcfg, hsession⟩

/-- An operation without clocks, before accesses. -/
theorem Issues.changing {α β : Type} {op : Op α} {f : α → Op β} {e'' : Engine} {x : α} {y : β}
    (h : Ends op e 0 x e') (he : SameBus e e') (k : Issues (f x) length e' items y e'') :
    Issues (op >>= f) length e items y e'' := by
  obtain ⟨hcable, htap, hcfg, hsession⟩ := he
  intro hd
  have after := k (hsession ▸ hd)
  rw [busScript_congr hcfg hsession] at after
  exact .after h ⟨hcable, htap⟩ after

/-- RESULT is written after the accesses. -/
theorem Issues.thenResult (h : Issues op length e items () (afterBus length items e')) (he : SameBus e e') (v : Word) :
    Issues (do op; writeResult v) length e items () (setResult v (Machine.afterBus length items e')) :=
  (h.bind (he.continues length items) (.last (setResult v) _)).congr (List.append_nil items) rfl

/-- Past the guard, with the stream open. -/
theorem guardSize_stream_issues (hs : e.flash.size ≠ 0#32) (hl : e.area.length ≠ 0#32) (hok : e.streams.ok = true)
    (hc : Issues checks length e [] () e) (hb : Issues body length (withSkipped false e) items () e') :
    Issues (guardSize checks (do requireStream; body)) length e items () e' :=
  guardSize_issues hs hl hc (.checked (requireStream_ends (e := withSkipped false e) hok) hb)

/-- The checks of AREA_ERASE and AREA_PROGRAM that come before the guard. -/
theorem checkedArea_issues (hvalid : e.area.valid = true)
    (hlayout : e.flash.cmdType ≠ some .spi ∨ e.session.spiLayout ≠ none) (k : Issues op length e items () e') :
    Issues (do requireArea; requireSpiLayout; op) length e items () e' :=
  .checked (requireArea_ends hvalid) (.checked (requireSpiLayout_ends hlayout) k)

end

/-! ## AREA_BACKUP (46_area_ops.md R182) -/

section
variable {length : Nat}

/-- The reads of the words of an area, from word `n` on. -/
def backupItems (start : Word) (n : Nat) (words : List Word) : List (Access × Word) :=
  words.mapIdx fun k w => (.read .word (wordAddress start (n + k)), w)

theorem backupItems_cons (start : Word) (n : Nat) (w : Word) (words : List Word) :
    backupItems start n (w :: words)
      = [(.read .word (wordAddress start n), w)] ++ backupItems start (n + 1) words := by
  simp only [backupItems, List.mapIdx_cons, Nat.add_zero, List.singleton_append, Nat.add_right_comm n 1,
    ← Nat.add_assoc]

/-- The engine after words are emitted. -/
def emitted (words : List Word) (e : Engine) : Engine :=
  setStreams (fun x => { x with output := x.output ++ words.flatMap (streamBytes e.options.swapEndian) }) e

theorem emitted_nil (e : Engine) : emitted [] e = e := by
  simp only [emitted, setStreams, List.flatMap_nil, List.append_nil]

theorem emitted_cons (w : Word) (words : List Word) (e : Engine) :
    emitted (w :: words) e = emitted words (emitted [w] e) := by
  simp only [emitted, setStreams, List.flatMap_cons, List.flatMap_nil, List.append_nil, List.append_assoc]

theorem emitWord_ends (w : Word) (e : Engine) : Ends (emitWord w) e 0 () (emitted [w] e) := by
  rw [emitted, List.flatMap_singleton]
  exact modifyEngine_ends _ e

/-- Each word is emitted as soon as it is read. -/
theorem backupWords_issues (words : List Word) (n : Nat) (e : Engine) :
    Issues (backupWords words.length n) length e (backupItems e.area.start n words) ()
      (afterBus length (backupItems e.area.start n words) (emitted words e)) := by
  induction words generalizing n e with
  | nil =>
    rw [emitted_nil]
    exact (Issues.done length () e).congr rfl (afterBus_nil length e).symm
  | cons w words ih =>
    rw [backupItems_cons, emitted_cons, afterBus_append]
    exact .get ((memRead_issues length _ w .word e).step
      (.changing (emitWord_ends w _) ⟨rfl, rfl, rfl, rfl⟩ (ih (n + 1) _)))

theorem backupArea_issues {words : List Word} {e : Engine} (hwords : words.length = wordCount e.area.length) :
    Issues backupArea length e (backupItems e.area.start 0 words) ()
      (setResult (BitVec.ofNat 32 words.length)
        (afterBus length (backupItems e.area.start 0 words) (emitted words e))) := by
  refine .get ?_
  rw [← hwords]
  exact (backupWords_issues words 0 e).thenResult ⟨rfl, rfl, rfl, rfl⟩ _

end

/-- Settles O56: past the guard with a stream, the loop reads and emits the words in order. -/
theorem areaBackup : Obligations.AreaBackup := by
  intro length s words items h hvalid hs hl hok hwords hitems hserves
  have from_zero : backupItems s.area.start 0 words = items := by
    simp only [hitems, backupItems, Nat.zero_add, wordAddress]
  have backup := backupArea_issues (length := length) (e := withSkipped false s.toEngine) hwords
  have guarded := guardSize_stream_issues hs hl hok (requireAccesses_issues length [.readWord] s.toEngine) backup
  subst from_zero
  exact runCommand_issues (i := .areaBackup) h (.checked (requireArea_ends hvalid) guarded) hserves

/-! ## The blocks of an area (46_area_ops.md R183) -/

/-- Settles O57: the selection is a filter of the table. -/
theorem blocksOfArea : Obligations.BlocksOfArea := by
  refine fun table start length => ⟨List.filter_sublist, fun a => ?_⟩
  by_cases hin : start.toNat ≤ a.toNat ∧ a.toNat < start.toNat + length.toNat
  · rw [if_pos hin, selectBlocks, List.count_filter (by simpa using hin)]
  · rw [if_neg hin]
    exact List.count_eq_zero.mpr fun ha => hin (by simpa using (List.mem_filter.mp ha).2)

end Sys2Proof.Machine
end

section
/-!
AREA_ERASE of every family through DMA (46_area_ops.md R184): bypass mode is left with the first block, and each block
is erased as FLASH_ERASE_BLOCK does.
-/

namespace Sys2Proof.Machine

/-! ## Leaving bypass mode, whatever the part -/

section
variable {length : Nat} {e : Engine}

/-- A part that can be erased and programmed: one of the families, an SPI part with its layout. -/
abbrev anyStyle (e : Engine) : Prop :=
  amdStyle e ∨ bscStyle e ∨ spiStyle e

theorem spiLayout_checked (h : anyStyle e) : e.flash.cmdType ≠ some .spi ∨ e.session.spiLayout ≠ none := by
  rcases h with hamd | hbsc | hspi
  · exact (changeable_nor (.inl hamd)).layout
  · exact (changeable_nor (.inr hbsc)).layout
  · exact (changeable_spi hspi).layout

theorem not_amdStyle_of_bscStyle (h : bscStyle e) : ¬ amdStyle e := by
  rcases h with h | h <;> simp [amdStyle, h]

theorem not_amdStyle_of_spiStyle (h : spiStyle e) : ¬ amdStyle e := by
  simp [amdStyle, h.1]

/-- The cycles of BypassExit, where the part has that mode (44_flash_parallel.md R170). -/
def leaveItems (e : Engine) : List (Access × Word) :=
  if amdStyle e then exitItems e else []

/-- The engine once bypass mode is left, where the part has that mode. -/
def outOfBypass (e : Engine) : Engine :=
  setFlash (fun f => { f with bypassActive := if amdStyle e then false else f.bypassActive }) e

theorem sameBus_outOfBypass (e : Engine) : SameBus e (outOfBypass e) := ⟨rfl, rfl, rfl, rfl⟩

theorem outOfBypass_of_amdStyle (h : amdStyle e) : outOfBypass e = bypassOff e := by
  rw [outOfBypass, bypassOff]
  simp only [if_pos h]

theorem outOfBypass_of_not_amdStyle (h : ¬ amdStyle e) : outOfBypass e = e := by
  rw [outOfBypass]
  simp only [if_neg h]
  rfl

theorem outOfBypass_eq (e : Engine) :
    outOfBypass e = { e with flash := if amdStyle e then { e.flash with bypassActive := false } else e.flash } := by
  split
  next hamd => exact outOfBypass_of_amdStyle hamd
  next hother => exact outOfBypass_of_not_amdStyle hother

/-- A part that is not in bypass mode, or does not have it. -/
def NotInBypass (e : Engine) : Prop :=
  amdStyle e → e.flash.bypassActive = false

theorem notInBypass_outOfBypass (e : Engine) : NotInBypass (outOfBypass e) :=
  fun hamd => if_pos hamd

theorem leaveItems_eq_nil (h : NotInBypass e) : leaveItems e = [] := by
  rw [leaveItems]
  split
  next hamd => exact exitItems_off (by simp [h hamd])
  next => rfl

theorem outOfBypass_same (h : NotInBypass e) : outOfBypass e = e := by
  by_cases hamd : amdStyle e
  · rw [outOfBypass_of_amdStyle hamd, bypassOff_same (by simp [h hamd])]
  · exact outOfBypass_of_not_amdStyle hamd

/-- An SPI part, or none: a reset-to-read has nothing to do. -/
def quietPart (e : Engine) : Prop :=
  e.flash.cmdType = some .spi ∨ e.flash.cmdType = none

theorem quietPart_of_not_nor (hamd : ¬ amdStyle e) (hbsc : ¬ bscStyle e) : quietPart e := by
  rw [quietPart]
  cases hk : e.flash.cmdType with
  | none => exact .inr rfl
  | some kind => cases kind <;> simp_all [amdStyle, bscStyle]

theorem not_amdStyle_of_quietPart (h : quietPart e) : ¬ amdStyle e := by
  rcases h with h | h <;> simp [amdStyle, h]

theorem resetItems_quiet (h : quietPart e) : resetItems e = [] := by
  rcases h with h | h <;> simp only [resetItems, h]

theorem flashResetRead_quiet_ends (h : quietPart e) : Ends flashResetRead e 0 () e :=
  .get (by rcases h with h | h <;> rw [h] <;> exact Ends.pure () e)

/-- Reset-to-read of any part, and of none (44_flash_parallel.md R168). -/
theorem flashResetRead_issues (length : Nat) (e : Engine) :
    Issues flashResetRead length e (leaveItems e ++ resetItems e) ()
      (afterBus length (leaveItems e ++ resetItems e) (outOfBypass e)) := by
  by_cases hamd : amdStyle e
  · rw [leaveItems, if_pos hamd, outOfBypass_of_amdStyle hamd]
    exact flashResetRead_amd length e hamd
  · rw [leaveItems, if_neg hamd, outOfBypass_of_not_amdStyle hamd, List.nil_append]
    by_cases hbsc : bscStyle e
    · exact flashResetRead_bsc length e hbsc
    · have hquiet := quietPart_of_not_nor hamd hbsc
      rw [resetItems_quiet hquiet, afterBus_nil]
      exact fun _ _ _ => flashResetRead_quiet_ends hquiet

theorem flashResetRead_out (length : Nat) (h : NotInBypass e) :
    Issues flashResetRead length e (resetItems e) () (afterBus length (resetItems e) e) := by
  have reset := flashResetRead_issues length e
  rw [leaveItems_eq_nil h, outOfBypass_same h, List.nil_append] at reset
  exact reset

/-! ## The blocks one after the other (46_area_ops.md R184) -/

/-- A block is erased as FLASH_ERASE_BLOCK does, whatever the family. -/
theorem eraseBlock_issues {a r1 r2 free : Word} (hpart : anyStyle e) (h : eraseReady e a r1 r2 free) :
    Issues (eraseBlock a) length e (leaveItems e ++ eraseItems e a r1 r2 free) ()
      (afterBus length (leaveItems e ++ eraseItems e a r1 r2 free) (outOfBypass e)) := by
  rcases hpart with hamd | hbsc | hspi
  · rw [leaveItems, if_pos hamd, outOfBypass_of_amdStyle hamd]
    exact eraseBlock_amd length hamd h
  · have hother := not_amdStyle_of_bscStyle hbsc
    rw [leaveItems, if_neg hother, outOfBypass_of_not_amdStyle hother]
    exact eraseBlock_bsc length a r1 r2 free e hbsc h
  · have hother := not_amdStyle_of_spiStyle hspi
    rw [leaveItems, if_neg hother, outOfBypass_of_not_amdStyle hother]
    exact eraseBlock_spi length a r1 r2 free e hspi h

/-- The accesses of the erase of one block, given with its replies. -/
def blockItems (e : Engine) (x : Word × Word × Word × Word) : List (Access × Word) :=
  eraseItems e x.1 x.2.1 x.2.2.1 x.2.2.2

/-- The status reads of that erase show the part ready at once. -/
def BlockReady (e : Engine) (x : Word × Word × Word × Word) : Prop :=
  eraseReady e x.1 x.2.1 x.2.2.1 x.2.2.2

theorem eraseBlocks_issues_out (blocks : List (Word × Word × Word × Word)) (hpart : anyStyle e) (hout : NotInBypass e)
    (hready : ∀ x ∈ blocks, BlockReady e x) :
    Issues (eraseBlocks (blocks.map Prod.fst)) length e (blocks.flatMap (blockItems e)) ()
      (afterBus length (blocks.flatMap (blockItems e)) e) := by
  induction blocks generalizing e with
  | nil => exact (Issues.done length () e).congr rfl (afterBus_nil length e).symm
  | cons x rest ih =>
    obtain ⟨hx, hrest⟩ := List.forall_mem_cons.mp hready
    have first := eraseBlock_issues (length := length) hpart hx
    rw [leaveItems_eq_nil hout, outOfBypass_same hout, List.nil_append] at first
    exact first.next (ih (e := afterBus length (blockItems e x) e) hpart hout hrest)

/-- The first block leaves bypass mode, and the others find it left. -/
theorem eraseBlocks_issues {blocks : List (Word × Word × Word × Word)} (hsome : blocks ≠ []) (hpart : anyStyle e)
    (hready : ∀ x ∈ blocks, BlockReady e x) :
    Issues (eraseBlocks (blocks.map Prod.fst)) length e (leaveItems e ++ blocks.flatMap (blockItems e)) ()
      (afterBus length (leaveItems e ++ blocks.flatMap (blockItems e)) (outOfBypass e)) := by
  obtain ⟨x, rest, rfl⟩ := List.exists_cons_of_ne_nil hsome
  obtain ⟨hx, hrest⟩ := List.forall_mem_cons.mp hready
  have others := eraseBlocks_issues_out (length := length) (e := afterBus length (leaveItems e ++ blockItems e x)
    (outOfBypass e)) rest hpart (notInBypass_outOfBypass e) hrest
  exact ((eraseBlock_issues hpart hx).also (sameBus_outOfBypass e) others).listed (List.append_assoc ..)

/-! ## AREA_ERASE -/

theorem requireEraseAccesses_issues (length : Nat) (e : Engine) : Issues requireEraseAccesses length e [] () e := by
  refine .get ?_
  split
  · exact .done length () e
  · exact requireChangeAccesses_issues length e

/-- The blocks of the area. -/
def areaBlocks (e : Engine) : List Word :=
  selectBlocks e.flash.blockTable e.area.start e.area.length

theorem areaBlocks_eq_filter (e : Engine) :
    areaBlocks e = e.flash.blockTable.filter fun a =>
      decide (e.area.start.toNat ≤ a.toNat ∧ a.toNat < e.area.start.toNat + e.area.length.toNat) := by
  simp only [areaBlocks, selectBlocks, Bool.decide_and]

theorem eraseArea_none (h : areaBlocks e = []) : Issues eraseArea length e [] () (setResult 0#32 e) := by
  refine .get ?_
  rw [← areaBlocks, h]
  exact .last (setResult 0#32) e

theorem eraseArea_issues {blocks : List (Word × Word × Word × Word)} (hblocks : blocks.map Prod.fst = areaBlocks e)
    (hsome : blocks ≠ []) (hpart : anyStyle e) (hready : ∀ x ∈ blocks, BlockReady e x) :
    Issues eraseArea length e (leaveItems e ++ blocks.flatMap (blockItems e)) ()
      (setResult (BitVec.ofNat 32 (areaBlocks e).length)
        (afterBus length (leaveItems e ++ blocks.flatMap (blockItems e)) (outOfBypass e))) := by
  refine .get ?_
  rw [← areaBlocks, ← hblocks]
  exact (eraseBlocks_issues hsome hpart hready).thenResult (sameBus_outOfBypass e) _

/-- AREA_ERASE is its operation, once its checks have passed. -/
theorem exec_areaErase {s : State} {items : List (Access × Word)} {e' : Engine} (h : ready length s)
    (hvalid : s.area.valid = true) (hs : s.flash.size ≠ 0#32) (hl : s.area.length ≠ 0#32) (hpart : anyStyle s.toEngine)
    (hb : Issues eraseArea length (withSkipped false s.toEngine) items () e') (hserves : serves length items s) :
    exec .areaErase s = .next (ending e' s) :=
  runCommand_issues (i := .areaErase) h (checkedArea_issues hvalid (spiLayout_checked hpart)
    (guardSize_issues hs hl (requireEraseAccesses_issues length _) hb)) hserves

end

/-- Settles O58: an area without blocks issues nothing; else the first block leaves bypass mode. -/
theorem areaErase : Obligations.AreaErase := by
  intro length s blocks replies items h hvalid hs hl hpart hblocks hreplies hready hitems hserves
  have selected : areaBlocks s.toEngine = blocks := (areaBlocks_eq_filter s.toEngine).trans hblocks.symm
  have zipped : (blocks.zip replies).map Prod.fst = blocks := List.map_fst_zip (by omega)
  by_cases hnone : blocks = []
  · subst hitems
    subst hnone
    simp only [ne_eq, not_true_eq_false, and_false, if_false, List.zip_nil_left, List.flatMap_nil, List.append_nil,
      afterBus_nil] at hserves ⊢
    exact exec_areaErase h hvalid hs hl hpart (eraseArea_none (e := withSkipped false s.toEngine) selected) hserves
  · have hsome : blocks.zip replies ≠ [] := fun hz => hnone (by rw [← zipped, hz]; rfl)
    have area := eraseArea_issues (length := length) (e := withSkipped false s.toEngine)
      (zipped.trans selected.symm) hsome hpart hready
    simp only [ne_eq, hnone, not_false_eq_true, and_true] at hitems ⊢
    subst hitems
    rw [exec_areaErase h hvalid hs hl hpart area hserves, outOfBypass_eq, ← selected]
    rfl

end Sys2Proof.Machine
end

section
/-!
AREA_PROGRAM of every family through DMA (46_area_ops.md R185): bypass mode is entered with the first word if it is
wanted, each word is taken from the stream and programmed, and bypass mode is left at the end.
-/

namespace Sys2Proof.Machine

/-! ## Entering bypass mode, whatever the part -/

section
variable {length : Nat} {e : Engine}

/-- The cycles of BypassEnter, where the part has that mode and opt_bypass wants it (44_flash_parallel.md R165). -/
def wantedEntry (e : Engine) : List (Access × Word) :=
  if amdStyle e then enterFirstItems e else []

/-- The engine once bypass mode is as opt_bypass wants it, where the part has that mode. -/
def inWantedMode (e : Engine) : Engine :=
  setFlash (fun f => { f with bypassActive := if amdStyle e then programsInBypass e else f.bypassActive }) e

theorem sameBus_inWantedMode (e : Engine) : SameBus e (inWantedMode e) := ⟨rfl, rfl, rfl, rfl⟩

theorem inWantedMode_of_amdStyle (h : amdStyle e) : inWantedMode e = withBypass (programsInBypass e) e := by
  rw [inWantedMode, withBypass]
  simp only [if_pos h]

theorem inWantedMode_of_not_amdStyle (h : ¬ amdStyle e) : inWantedMode e = e := by
  rw [inWantedMode]
  simp only [if_neg h]
  rfl

/-- A part whose bypass mode is as opt_bypass wants it, or that does not have it. -/
def ModeAsWanted (e : Engine) : Prop :=
  amdStyle e → e.flash.bypassActive = programsInBypass e

theorem programsInBypass_inWantedMode (e : Engine) : programsInBypass (inWantedMode e) = programsInBypass e := by
  by_cases hamd : amdStyle e
  · rw [inWantedMode_of_amdStyle hamd]
    simp [programsInBypass, withBypass]
  · rw [inWantedMode_of_not_amdStyle hamd]

theorem modeAsWanted_inWantedMode (e : Engine) : ModeAsWanted (inWantedMode e) :=
  fun hamd => (if_pos hamd).trans (programsInBypass_inWantedMode e).symm

theorem inWantedMode_same (h : ModeAsWanted e) : inWantedMode e = e := by
  by_cases hamd : amdStyle e
  · rw [inWantedMode_of_amdStyle hamd, ← h hamd, withBypass_same]
  · exact inWantedMode_of_not_amdStyle hamd

theorem wantedEntry_eq_nil (h : ModeAsWanted e) : wantedEntry e = [] := by
  rw [wantedEntry]
  split
  next hamd =>
    rw [enterFirstItems]
    split
    next hopt => exact if_pos ((h hamd).trans (by simp [programsInBypass, hopt]))
    next => rfl
  next => rfl

/-! ## One word -/

/-- The accesses of the program of a word, given with its replies. -/
def wordItems (e : Engine) (bypass : Bool) (free a : Word) (x : Word × Word × Word) : List (Access × Word) :=
  programItems e bypass a x.1 x.2.1 x.2.2 free

/-- The polls of that program end at once. -/
def WordReady (e : Engine) (free a : Word) (x : Word × Word × Word) : Prop :=
  programReady e a x.1 x.2.1 x.2.2 free

/-- A word is programmed as FLASH_PROGRAM_WORD does, whatever the family. -/
theorem programWord_issues {a free : Word} {x : Word × Word × Word} (hpart : anyStyle e) (h : WordReady e free a x) :
    Issues (programWord a x.1) length e (wantedEntry e ++ wordItems e (programsInBypass e) free a x) ()
      (afterBus length (wantedEntry e ++ wordItems e (programsInBypass e) free a x) (inWantedMode e)) := by
  rcases hpart with hamd | hbsc | hspi
  · rw [wantedEntry, if_pos hamd, inWantedMode_of_amdStyle hamd]
    exact programWord_amd length hamd h
  · have hother := not_amdStyle_of_bscStyle hbsc
    rw [wantedEntry, if_neg hother, inWantedMode_of_not_amdStyle hother]
    exact programWord_bsc length _ hbsc h
  · have hother := not_amdStyle_of_spiStyle hspi
    rw [wantedEntry, if_neg hother, inWantedMode_of_not_amdStyle hother]
    exact programWord_spi length _ hspi h

/-! ## The stream (46_area_ops.md R180) -/

/-- The engine after `n` words are taken. -/
def consumed (n : Nat) (e : Engine) : Engine :=
  setStreams (fun x => { x with input := x.input.drop (4 * n) }) e

theorem consumed_succ (n : Nat) (e : Engine) : consumed (n + 1) e = consumed n (consumed 1 e) := by
  simp only [consumed, setStreams, List.drop_drop]
  congr 4
  omega

theorem inWantedMode_consumed (n : Nat) (e : Engine) : inWantedMode (consumed n e) = consumed n (inWantedMode e) := rfl

theorem consumed_afterBus (n length : Nat) (items : List (Access × Word)) (e : Engine) :
    consumed n (afterBus length items e) = afterBus length items (consumed n e) := rfl

/-- A word takes four bytes, or what there is. -/
theorem takeWord_rest (swap : Bool) (bytes : List Byte) : (takeWord swap bytes).2 = bytes.drop 4 := by
  rcases bytes with _ | ⟨_, _ | ⟨_, _ | ⟨_, _ | ⟨_, _⟩⟩⟩⟩ <;> rfl

/-- The words the engine takes next. -/
def nextWords (n : Nat) (e : Engine) : List Word :=
  takenWords e.options.swapEndian n e.streams.input

theorem nextWords_succ (n : Nat) (e : Engine) :
    nextWords (n + 1) e = (takeWord e.options.swapEndian e.streams.input).1.1 :: nextWords n (consumed 1 e) := by
  rw [nextWords, takenWords, takeWord_rest]
  rfl

theorem takeStreamWord_ends (e : Engine) :
    Ends takeStreamWord e 0 (takeWord e.options.swapEndian e.streams.input).1 (consumed 1 e) := by
  have taken : setStreams (fun x => { x with input := (takeWord e.options.swapEndian x.input).2 }) e
      = consumed 1 e := by
    simp only [consumed, setStreams, takeWord_rest]
  rw [← taken]
  exact .get ((modifyEngine_ends _ e).before (Ends.pure _ _))

/-! ## The words one after the other (46_area_ops.md R185) -/

/-- The accesses of the programs of words, from word `n` of the area on. -/
def areaItems (e : Engine) (bypass : Bool) (free : Word) (n : Nat) (xs : List (Word × Word × Word)) :
    List (Access × Word) :=
  (xs.mapIdx fun k x => wordItems e bypass free (wordAddress e.area.start (n + k)) x).flatten

theorem areaItems_cons (e : Engine) (bypass : Bool) (free : Word) (n : Nat) (x : Word × Word × Word)
    (xs : List (Word × Word × Word)) :
    areaItems e bypass free n (x :: xs)
      = wordItems e bypass free (wordAddress e.area.start n) x ++ areaItems e bypass free (n + 1) xs := by
  simp only [areaItems, List.mapIdx_cons, List.flatten_cons, Nat.add_zero, Nat.add_right_comm n 1, ← Nat.add_assoc]

theorem areaItems_afterBus (length : Nat) (items : List (Access × Word)) (e : Engine) :
    areaItems (afterBus length items e) = areaItems e := rfl

theorem areaItems_consumed (n : Nat) (e : Engine) : areaItems (consumed n e) = areaItems e := rfl

theorem areaItems_inWantedMode (e : Engine) : areaItems (inWantedMode e) = areaItems e := rfl

/-- The words `xs`, given with their replies, are those the stream supplies for word `n` of the area and the words after
it, and the polls of their programs end at once. -/
structure Supplied (e : Engine) (free : Word) (n : Nat) (xs : List (Word × Word × Word)) : Prop where
  words : xs.map Prod.fst = nextWords xs.length e
  ready : ∀ k x, xs[k]? = some x → WordReady e free (wordAddress e.area.start (n + k)) x

section
variable {bypass : Bool} {free : Word} {n : Nat} {x : Word × Word × Word} {xs : List (Word × Word × Word)}

theorem Supplied.first (h : Supplied e free n (x :: xs)) :
    x.1 = (takeWord e.options.swapEndian e.streams.input).1.1 :=
  (List.cons.inj (h.words.trans (nextWords_succ ..))).1

theorem Supplied.firstReady (h : Supplied e free n (x :: xs)) : WordReady e free (wordAddress e.area.start n) x :=
  h.ready 0 x rfl

theorem Supplied.rest (h : Supplied e free n (x :: xs)) : Supplied (consumed 1 e) free (n + 1) xs where
  words := (List.cons.inj (h.words.trans (nextWords_succ ..))).2
  ready k y hy := by
    rw [Nat.add_assoc, Nat.add_comm 1]
    exact h.ready (k + 1) y hy

/-- What a supply depends on: no access and no bypass mode changes it. -/
theorem Supplied.accessed (h : Supplied e free n xs) (length : Nat) (items : List (Access × Word)) :
    Supplied (afterBus length items e) free n xs :=
  ⟨h.words, h.ready⟩

theorem Supplied.inMode (h : Supplied e free n xs) : Supplied (inWantedMode e) free n xs :=
  ⟨h.words, h.ready⟩

/-- One word is taken and programmed, and then the others are. -/
theorem programWords_cons {first ys : List (Access × Word)} {e' : Engine} (hpart : anyStyle e)
    (h : Supplied e free n (x :: xs))
    (hfirst : first = wantedEntry e ++ wordItems e (programsInBypass e) free (wordAddress e.area.start n) x)
    (rest : Issues (programWords xs.length (n + 1)) length (afterBus length first (inWantedMode (consumed 1 e))) ys ()
      (afterBus length ys (afterBus length first e'))) :
    Issues (programWords (x :: xs).length n) length e (first ++ ys) () (afterBus length (first ++ ys) e') := by
  subst hfirst
  have word := programWord_issues (length := length) (e := consumed 1 e) hpart h.firstReady
  rw [h.first] at word
  exact .changing (takeStreamWord_ends e) ⟨rfl, rfl, rfl, rfl⟩
    (.get (word.also (sameBus_inWantedMode (consumed 1 e)) rest))

theorem programWords_issues_wanted (hpart : anyStyle e) (hmode : ModeAsWanted e) (hbypass : programsInBypass e = bypass)
    (h : Supplied e free n xs) :
    Issues (programWords xs.length n) length e (areaItems e bypass free n xs) ()
      (afterBus length (areaItems e bypass free n xs) (consumed xs.length e)) := by
  induction xs generalizing e n with
  | nil => exact (Issues.done length () e).congr rfl (afterBus_nil length e).symm
  | cons x xs ih =>
    rw [areaItems_cons, List.length_cons, consumed_succ]
    refine programWords_cons hpart h (by rw [wantedEntry_eq_nil hmode, hbypass, List.nil_append]) ?_
    rw [inWantedMode_same (e := consumed 1 e) hmode]
    exact ih (e := afterBus length _ (consumed 1 e)) hpart hmode hbypass (h.rest.accessed length _)

/-- The first word has bypass mode entered if it is wanted, and the others find it so. -/
theorem programWords_issues (hsome : xs ≠ []) (hpart : anyStyle e) (hbypass : programsInBypass e = bypass)
    (h : Supplied e free n xs) :
    Issues (programWords xs.length n) length e (wantedEntry e ++ areaItems e bypass free n xs) ()
      (afterBus length (wantedEntry e ++ areaItems e bypass free n xs)
        (consumed xs.length (inWantedMode e))) := by
  obtain ⟨x, xs, rfl⟩ := List.exists_cons_of_ne_nil hsome
  rw [areaItems_cons, ← List.append_assoc, List.length_cons, consumed_succ]
  refine programWords_cons hpart h (by rw [hbypass]) ?_
  rw [inWantedMode_consumed]
  have others (items : List (Access × Word)) := programWords_issues_wanted (length := length)
    (e := afterBus length items (consumed 1 (inWantedMode e))) hpart (modeAsWanted_inWantedMode e)
    ((programsInBypass_inWantedMode e).trans hbypass) (h.inMode.rest.accessed length items)
  simp only [areaItems_afterBus, areaItems_consumed, areaItems_inWantedMode, consumed_afterBus] at others
  exact others _

end

/-! ## The end (46_area_ops.md R185) -/

/-- bypass_active is 0 after it, whatever the part. -/
theorem leaveBypass_issues (length : Nat) (e : Engine) :
    Issues leaveBypass length e (leaveItems e) () (afterBus length (leaveItems e) (bypassOff e)) := by
  refine .get ?_
  rw [leaveItems]
  split
  · exact bypassExit_issues length e
  · exact (Issues.last _ e).congr rfl (afterBus_nil length (bypassOff e)).symm

/-- Bypass mode is left from where the words have left it. -/
theorem leaveItems_inWantedMode (e : Engine) :
    leaveItems (inWantedMode e) = if amdStyle e ∧ programsInBypass e = true
      then [cycle e.flash.base (partTable e).bypassExit1, cycle e.flash.base (partTable e).bypassExit2] else [] := by
  by_cases hamd : amdStyle e
  · have mode : (inWantedMode e).flash.bypassActive = programsInBypass e := if_pos hamd
    rw [leaveItems, if_pos (by exact hamd), exitItems, mode]
    simp only [hamd, true_and]
    rfl
  · rw [leaveItems, if_neg (by exact hamd), if_neg (fun h => hamd h.1)]

/-- Bypass mode is left, and the part is returned to read mode. -/
theorem endProgramArea_issues (length : Nat) (v : Word) (e : Engine) :
    Issues (do leaveBypass; flashResetRead; writeResult v) length e (leaveItems e ++ resetItems e) ()
      (afterBus length (leaveItems e ++ resetItems e) (setResult v (bypassOff e))) :=
  have reset := flashResetRead_out length (e := afterBus length (leaveItems e) (bypassOff e)) fun _ => rfl
  (leaveBypass_issues length e).also (sameBus_bypassOff e) (reset.thenResult ⟨rfl, rfl, rfl, rfl⟩ v)

theorem programArea_issues {bypass : Bool} {free : Word} {xs : List (Word × Word × Word)}
    (hlen : xs.length = wordCount e.area.length) (hsome : xs ≠ []) (hpart : anyStyle e)
    (hbypass : programsInBypass e = bypass) (h : Supplied e free 0 xs) :
    Issues programArea length e
      (wantedEntry e ++ areaItems e bypass free 0 xs ++ (leaveItems (inWantedMode e) ++ resetItems e)) ()
      (afterBus length
        (wantedEntry e ++ areaItems e bypass free 0 xs ++ (leaveItems (inWantedMode e) ++ resetItems e))
        (setResult (BitVec.ofNat 32 xs.length) (bypassOff (consumed xs.length e)))) := by
  refine .get ?_
  rw [← hlen]
  have words := programWords_issues (length := length) hsome hpart hbypass h
  have ending := endProgramArea_issues length (BitVec.ofNat 32 xs.length)
    (afterBus length (wantedEntry e ++ areaItems e bypass free 0 xs) (consumed xs.length (inWantedMode e)))
  exact words.also ⟨rfl, rfl, rfl, rfl⟩ ending

theorem takenWords_length (swap : Bool) (n : Nat) (bytes : List Byte) : (takenWords swap n bytes).length = n := by
  induction n generalizing bytes with
  | zero => rfl
  | succ n ih => rw [takenWords, List.length_cons, ih]

end

/-- Settles O59: the words are those the stream supplies, and bypass mode lasts from the first to the last. -/
theorem areaProgram : Obligations.AreaProgram := by
  intro length s free words replies bypass n items h hvalid hs hl hok hpart hn hwords hreplies hbypass hready hitems
    hserves
  have words_length : words.length = n := by rw [hwords, takenWords_length]
  have hlen : (words.zip replies).length = n := by rw [List.length_zip, words_length, hreplies, Nat.min_self]
  have hsome : words.zip replies ≠ [] := by
    have hpos : 0 < s.area.length.toNat := by bv_omega
    exact List.ne_nil_of_length_pos (by omega)
  have supplied : Supplied (withSkipped false s.toEngine) free 0 (words.zip replies) := by
    refine ⟨?_, fun k x hx => ?_⟩
    · rw [List.map_fst_zip (by rw [words_length, hreplies]), hlen]
      exact hwords
    · obtain ⟨hw, hr⟩ := List.getElem?_zip_eq_some.mp hx
      rw [Nat.zero_add]
      exact hready k x.1 x.2 hw hr
  have area := programArea_issues (length := length) (e := withSkipped false s.toEngine) (hlen.trans hn) hsome hpart
    hbypass.symm supplied
  have listed : items = wantedEntry s.toEngine ++ areaItems s.toEngine bypass free 0 (words.zip replies)
      ++ (leaveItems (inWantedMode s.toEngine) ++ resetItems s.toEngine) := by
    simp only [hitems, leaveItems_inWantedMode, ← hbypass, wantedEntry, enterFirstItems, ite_and, areaItems,
      Nat.zero_add, List.append_assoc]
    rfl
  subst listed
  rw [hlen] at area
  exact runCommand_issues (i := .areaProgram) h (checkedArea_issues hvalid (spiLayout_checked hpart)
    (guardSize_stream_issues hs hl hok (requireChangeAccesses_issues length _) area)) hserves

end Sys2Proof.Machine
end

section
/-!
SESSION_END (46_area_ops.md R186): what it does with the flash part, the processor and the TAP, one after the other.
-/

namespace Sys2Proof.Machine

section
variable {length : Nat} {e : Engine}

/-! ## The parts of the command -/

/-- The return of the selected part to read mode, where the TAP is ready for it. -/
def returnFlash (e : Engine) : Op Unit :=
  if teardownResetsFlash e then do
    requireResetAccesses
    flashResetRead
  else pure ()

/-- The reboot, where it is wanted and the TAP is ready for it. -/
def rebootIfWanted (e : Engine) : Op Unit :=
  if teardownReady e && e.options.reboot then resetProcessor else pure ()

/-- What SESSION_END does with the flash part and the processor. -/
def teardown (e : Engine) : Op Unit := do
  returnFlash e
  rebootIfWanted e

theorem endSession_eq : endSession = (do
    let e ← getEngine
    teardown e
    setBypass false
    testReset) := by
  refine congrArg (getEngine >>= ·) (funext fun e => ?_)
  rw [teardown, returnFlash, rebootIfWanted]
  split <;> split <;> simp only [bind_assoc, pure_bind]

/-- The end of every teardown: bypass_active is cleared, and TestReset runs. -/
theorem endTeardown_ends (e : Engine) :
    Ends (do setBypass false; testReset) e 6 () (afterTestReset (bypassOff e)) :=
  (modifyEngine_ends _ e).before (testReset_ends (bypassOff e))

theorem endSession_ends {n : Nat} {e' : Engine} (h : Ends (teardown e) e n () e') :
    Ends endSession e (n + 6) () (afterTestReset (bypassOff e')) := by
  rw [endSession_eq]
  exact .get (h.bind (endTeardown_ends e'))

/-- Whether the part was in bypass mode does not show once the bit is cleared. -/
theorem bypassOff_outOfBypass (script : List Exchange) (items : List (Access × Word)) (e : Engine) :
    bypassOff (afterScript length script (afterBus length items (outOfBypass e)))
      = bypassOff (afterScript length script (afterBus length items e)) :=
  have off : bypassOff (outOfBypass e) = bypassOff e := rfl
  congrArg (fun x => afterScript length script (afterBus length items x)) off

/-! ## The TAP not ready -/

theorem teardown_ends_not_ready (h : teardownReady e = false) : Ends (teardown e) e 0 () e := by
  rw [teardown, returnFlash, rebootIfWanted, if_neg (by simp [teardownResetsFlash, h]), if_neg (by simp [h])]
  exact (Ends.pure () e).before (Ends.pure () e)

/-! ## The TAP ready -/

/-- What the return to read mode issues. -/
def returnItems (e : Engine) : List (Access × Word) :=
  leaveItems e ++ resetItems e

theorem returnItems_quiet (h : quietPart e) : returnItems e = [] := by
  rw [returnItems, resetItems_quiet h, leaveItems, if_neg (not_amdStyle_of_quietPart h), List.append_nil]

/-- A NOR part is reset by at least one cycle. -/
theorem returnItems_ne_nil (h : amdStyle e ∨ bscStyle e) : returnItems e ≠ [] := by
  have : resetItems e ≠ [] := by
    obtain (h | h) | (h | h) := h <;> simp [resetItems, h]
  simp [returnItems, this]

theorem returnFlash_quiet_ends (h : quietPart e) : Ends (returnFlash e) e 0 () e := by
  rw [returnFlash]
  split
  next resets =>
    have hspi : e.flash.cmdType = some .spi := h.resolve_right fun hnone => by
      simp [teardownResetsFlash, hnone] at resets
    exact (requireResetAccesses_spi_ends hspi).before (flashResetRead_spi_ends hspi)
  next => exact Ends.pure () e

theorem returnFlash_issues (hready : teardownReady e = true) (hnor : amdStyle e ∨ bscStyle e) :
    Issues (returnFlash e) length e (returnItems e) () (afterBus length (returnItems e) (outOfBypass e)) := by
  have resets : teardownResetsFlash e = true := by
    obtain (h | h) | (h | h) := hnor <;> simp [teardownResetsFlash, hready, h]
  rw [returnFlash, if_pos resets]
  exact .after (requireResetAccesses_issues length e) (flashResetRead_issues length e)

/-- The return to read mode along its accesses; without any, under either strategy. -/
theorem returnFlash_does (hready : teardownReady e = true) (h : e.session.useDma = true ∨ returnItems e = []) :
    Does (returnFlash e) length e (busScript e (returnItems e)) ()
      (afterBus length (returnItems e) (outOfBypass e)) := by
  by_cases hnor : amdStyle e ∨ bscStyle e
  · exact returnFlash_issues hready hnor (h.resolve_right (returnItems_ne_nil hnor))
  · obtain ⟨hamd, hbsc⟩ := not_or.mp hnor
    have hquiet := quietPart_of_not_nor hamd hbsc
    rw [returnItems_quiet hquiet, afterBus_nil, outOfBypass_of_not_amdStyle hamd]
    exact fun _ _ => returnFlash_quiet_ends hquiet

/-- What a reboot drives (41_memory_access.md R129). -/
def rebootScript (e : Engine) : List Exchange :=
  if e.options.reboot = true
    then [.select e.cfg.ir.control, .swap (ctlReset e.cfg.ctl) anyReply, .swap 0#32 anyReply] else []

/-- The reboot wanted by `e0`, from an engine with its parameters. -/
theorem rebootIfWanted_does {e0 : Engine} (hready : teardownReady e0 = true) (hc : e.cfg = e0.cfg) :
    Does (rebootIfWanted e0) length e (rebootScript e0) () (afterScript length (rebootScript e0) e) := by
  rw [rebootIfWanted, rebootScript, hready, Bool.true_and, ← hc]
  split
  · exact resetProcessor_does length e
  · exact Does.done length () e

/-- The flash part and the processor, the TAP ready. -/
theorem teardown_does (hready : teardownReady e = true) (h : e.session.useDma = true ∨ returnItems e = []) :
    Does (teardown e) length e (busScript e (returnItems e) ++ rebootScript e) ()
      (afterScript length (rebootScript e) (afterBus length (returnItems e) (outOfBypass e))) :=
  (returnFlash_does hready h).bind ⟨rfl, rfl⟩ (rebootIfWanted_does hready rfl)

end

/-- SESSION_END once its teardown is known; FAULTED does not hold it back. -/
theorem exec_sessionEnd {n : Nat} {s : State} {e : Engine} (hidle : s.running = none)
    (h : Ends (teardown s.toEngine) s.toEngine n () e) (hn : n + 6 ≤ clocksAllowed s) :
    exec .sessionEnd s = .next (ending (afterTestReset (bypassOff e)) s) :=
  runCommand_allowed hidle (.inr rfl) (Ends.pure () s.toEngine) (endSession_ends h) hn

/-- Settles O60: the teardown does nothing if the TAP is not ready, and else follows its script; in both cases
bypass_active is cleared and TestReset runs. -/
theorem sessionEnd : Obligations.SessionEnd := by
  refine ⟨fun s hidle hn hnot => ?notReady, ?ready⟩
  case notReady =>
    have hready : teardownReady s.toEngine = false := by
      rcases hnot with h | h <;> simp [teardownReady, h]
    exact exec_sessionEnd hidle (teardown_ends_not_ready hready) (by omega)
  case ready =>
    rintro length s items reboot e hidle hs hl hitems hdma rfl ha hn rfl
    have hready : teardownReady s.toEngine = true := by simp [teardownReady, hs, hl]
    have listed : items = returnItems s.toEngine := by
      rw [hitems, returnItems, leaveItems]
      congr 1
      split
      next h => exact (resetItems_quiet (.inl h.1)).symm
      next => rfl
    subst listed
    have ends := exec_sessionEnd hidle (teardown_does hready hdma hl ha) hn
    rw [bypassOff_outOfBypass] at ends
    exact ends

end Sys2Proof.Machine
end

section
/-!
Refusal while FAULTED (60_exceptions.md R191), block reset and what a busy block does (70_reset_and_hazards.md R202,
R209).
-/

namespace Sys2Proof.Machine

/-- Settles O8: every instruction is a command in the frame that refuses it. -/
theorem refusedWhileFaulted : Obligations.RefusedWhileFaulted := by
  intro i s hidle hfaulted hreset hend
  obtain ⟨c, body, -, hexec⟩ := runsSound i
  have held : runsWhileFaulted i = false := by simp [runsWhileFaulted, hreset, hend]
  exact (hexec s).trans (runCommand_refused hidle hfaulted held)

section
variable {s : State} {rest : List HostAction}

theorem step_of_busy {r : Running} (hbusy : s.running = some r) : step s = busyTurn r s := by
  rw [step, hbusy]

/-! ## Block reset (70_reset_and_hazards.md R202) -/

/-- A block reset is obeyed whether the block is busy or not (60_exceptions.md R194). -/
theorem step_blockReset (hhost : s.host = .blockReset :: rest) : step s = .next (blockReset { s with host := rest }) := by
  obtain hidle | ⟨r, hbusy⟩ := Option.eq_none_or_eq_some s.running
  · exact step_idle_cons hidle hhost
  · rw [step_of_busy hbusy, busyTurn, hhost]

/-- Idle, not FAULTED, with nothing recorded and tap_shadow UNKNOWN, STATUS reads 0 (10_state.md R47). -/
theorem statusWord_blockReset (s : State) : statusWord (blockReset s) = 0#32 := by
  have hstatus : (blockReset s).status = (Engine.reset s.cfg).status := rfl
  have hshadow : (blockReset s).cable.shadow = none := rfl
  have hrunning : (blockReset s).running = none := rfl
  simp only [statusWord, hstatus, hshadow, hrunning, Engine.reset]
  rfl

/-! ## A busy block (70_reset_and_hazards.md R209) -/

theorem step_busy_drops {r : Running} {v : Word} (hbusy : s.running = some r)
    (hhost : s.host = .writeA v :: rest ∨ s.host = .writeB v :: rest ∨ s.host = .writeCmd v :: rest) :
    step s = .next { s with host := rest } := by
  rw [step_of_busy hbusy, busyTurn]
  rcases hhost with h | h | h <;> rw [h]

/-- The host is about to do nothing, or something that an idle block alone does. -/
def HostWaits (s : State) : Prop :=
  s.host = [] ∨ s.host.head? = some .awaitIdle ∨ (∃ ok bytes, s.host.head? = some (.openStreams ok bytes))
    ∨ ∃ p w, s.host.head? = some (.present p w)

theorem step_busy_goesOn {r : Running} (hbusy : s.running = some r) (hwaits : HostWaits s) :
    step s = exec r.instr s := by
  rw [step_of_busy hbusy, busyTurn]
  rcases hwaits with h | h | ⟨ok, bytes, h⟩ | ⟨p, w, h⟩
  · rw [h]
  all_goals
    obtain ⟨rest, hrest⟩ := List.head?_eq_some_iff.mp h
    rw [hrest]

end

/-! The settled statements; O6 in a namespace of its own, for the operation already has its name. -/

namespace HostPort

/-- Settles O6: the step is `blockReset`, read off field by field. -/
theorem blockReset : Obligations.BlockReset := by
  intro s rest hhost
  exact ⟨_, step_blockReset hhost, rfl, rfl, statusWord_blockReset _, rfl, rfl, rfl, rfl, rfl, rfl, rfl, rfl, rfl, rfl,
    rfl, rfl⟩

end HostPort

/-- Settles O9: register writes are dropped, and while the host waits the command goes on. -/
theorem busyBlock : Obligations.BusyBlock :=
  fun _ _ hbusy => ⟨fun _ _ hhost => step_busy_drops hbusy hhost, fun hwaits => step_busy_goesOn hbusy hwaits⟩

end Sys2Proof.Machine
end

section
/-!
What an operation keeps and what its clocks change, however it ends: a known tap_shadow stays known, a recorded fault
stays recorded (`Onward`), and more clocks change nothing about an operation that has ended (`Extends`). `Steady` says
both of an operation; here are its rules and the operations below the commands.
-/

namespace Sys2Proof.Machine

/-! ## From one engine to a later one -/

/-- What holds of the engine `e` and an engine `e'` that a command reaches from it (10_state.md R22, 60_exceptions.md
R191). -/
structure Onward (e e' : Engine) : Prop where
  known : e.cable.shadow ≠ none → e'.cable.shadow ≠ none
  record : e.status.faulted = true → e'.status.faulted = true ∧ e'.status.faultCode = e.status.faultCode

theorem Onward.refl (e : Engine) : Onward e e :=
  ⟨id, fun h => ⟨h, rfl⟩⟩

theorem Onward.trans {e e' e'' : Engine} (h : Onward e e') (k : Onward e' e'') : Onward e e'' := by
  refine ⟨k.known ∘ h.known, fun hf => ?_⟩
  obtain ⟨hf', hcode⟩ := h.record hf
  obtain ⟨hf'', hcode'⟩ := k.record hf'
  exact ⟨hf'', hcode'.trans hcode⟩

theorem SameRecord.onward {e e' : Engine} (h : SameRecord e' e) : Onward e e' := by
  obtain ⟨-, hcable, hfaulted, hcode⟩ := h
  exact ⟨hcable ▸ id, fun hf => ⟨hfaulted.trans hf, hcode⟩⟩

/-- The first code stays (60_exceptions.md R190). -/
theorem onward_faultedEngine (code : FaultCode) (info : Word) (e : Engine) : Onward e (faultedEngine code info e) := by
  refine ⟨id, fun hf => ?_⟩
  rw [faultedEngine_status, faultedStatus, if_pos hf]
  exact ⟨hf, rfl⟩

theorem clockPins_shadow_ne_none {k : CableClock} {c : Cable} (h : c.shadow ≠ none) :
    (clockPins k c).2.shadow ≠ none := by
  rw [clockPins_shadow, shadowNext]
  exact mt Option.map_eq_none_iff.mp h

theorem driven_shadow_ne_none (ks : List CableClock) {c : Cable} (h : c.shadow ≠ none) :
    (driven ks c).shadow ≠ none := by
  induction ks generalizing c with
  | nil => exact h
  | cons k ks ih => exact ih (clockPins_shadow_ne_none h)

theorem onward_driven (ks : List CableClock) (e : Engine) : Onward e (setCable (driven ks) e) :=
  ⟨driven_shadow_ne_none ks, fun h => ⟨h, rfl⟩⟩

/-! ## More clocks -/

section
variable {α β : Type}

/-- The run with `k` more clocks to drive. -/
def Run.plus (k : Nat) (r : Run) : Run :=
  { r with budget := r.budget + k }

/-- The same result with `k` clocks more left over. -/
def leftOver (k : Nat) : EStateM.Result Stop Run α → EStateM.Result Stop Run α
  | .ok x r => .ok x (r.plus k)
  | .error stop r => .error stop (r.plus k)

/-- The operation has ended, with a value or with a fault: it was not cut short. -/
def Ended : EStateM.Result Stop Run α → Prop
  | .ok _ _ => True
  | .error .faulted _ => True
  | .error .paused _ => False

/-- Where `op` ends, `op'` with more clocks ends alike and has these left over. -/
def Extends (op op' : Op α) : Prop :=
  ∀ r k, Ended (op r) → op' (r.plus k) = leftOver k (op r)

theorem Extends.bind {op op' : Op α} {f f' : α → Op β} (h : Extends op op') (hf : ∀ x, Extends (f x) (f' x)) :
    Extends (op >>= f) (op' >>= f') := by
  intro r k hended
  rw [bind_run] at hended ⊢
  rw [bind_run]
  have first := h r k
  cases hop : op r with
  | ok x r' =>
    rw [hop] at first hended
    rw [first trivial]
    exact hf x r' k hended
  | error stop r' =>
    rw [hop] at first hended
    rw [first (by cases stop <;> exact hended)]
    rfl

/-- A pause is no end. -/
theorem pauseHere_extends (op : Op α) : Extends pauseHere op :=
  fun _ _ h => h.elim

/-- The operation keeps `Onward`, and more clocks change nothing about its end. -/
structure Steady (op : Op α) : Prop where
  onward : ∀ r, Onward r.eng (reached (op r)).eng
  extends_self : Extends op op

/-! ## The rules -/

theorem Steady.pure (x : α) : Steady (Pure.pure x : Op α) :=
  ⟨fun r => .refl r.eng, fun _ _ _ => rfl⟩

theorem Steady.bind {op : Op α} {f : α → Op β} (h : Steady op) (hf : ∀ x, Steady (f x)) : Steady (op >>= f) := by
  refine ⟨fun r => ?_, h.extends_self.bind fun x => (hf x).extends_self⟩
  have first := h.onward r
  rw [bind_run]
  cases hop : op r with
  | ok x r' =>
    rw [hop] at first
    exact first.trans ((hf x).onward r')
  | error stop r' =>
    rw [hop] at first
    exact first

/-- One operation after the other, the first one's value dropped. -/
theorem Steady.seq {op : Op α} {next : Op β} (h : Steady op) (k : Steady next) : Steady (op >>= fun _ => next) :=
  h.bind fun _ => k

theorem Steady.ite {c : Prop} [Decidable c] {a b : Op α} (ha : Steady a) (hb : Steady b) :
    Steady (if c then a else b) := by
  split
  · exact ha
  · exact hb

theorem Steady.read {f : Engine → Op β} (hf : ∀ e, Steady (f e)) : Steady (getEngine >>= f) :=
  .bind ⟨fun r => .refl r.eng, fun _ _ _ => rfl⟩ hf

theorem modifyEngine_steady {f : Engine → Engine} (h : ∀ e, Onward e (f e)) : Steady (modifyEngine f) :=
  ⟨fun r => h r.eng, fun _ _ _ => rfl⟩

/-- An update of other fields than the parameters, the cable and the fault record. -/
theorem Steady.modify {f : Engine → Engine} (h : ∀ e, SameRecord (f e) e) : Steady (modifyEngine f) :=
  modifyEngine_steady fun e => (h e).onward

theorem raiseFault_steady (code : FaultCode) (info : Word) : Steady (raiseFault code info : Op α) :=
  ⟨fun r => onward_faultedEngine code info r.eng, fun _ _ _ => rfl⟩

theorem raiseWithCommand_steady (code : FaultCode) : Steady (raiseWithCommand code : Op α) :=
  ⟨fun r => onward_faultedEngine code r.eng.regs.cmd r.eng, fun _ _ _ => rfl⟩

theorem pauseHere_steady : Steady (pauseHere : Op α) :=
  ⟨fun r => .refl r.eng, pauseHere_extends _⟩

theorem driveClocks_steady (ks : List CableClock) : Steady (driveClocks ks) := by
  constructor
  · intro r
    rcases Nat.lt_or_ge r.budget ks.length with hb | hb
    · rw [driveClocks_pauses ks r.eng r.budget hb]
      exact onward_driven _ r.eng
    · rw [driveClocks_ends ks r.eng r.budget hb]
      exact onward_driven ks r.eng
  · intro r k hended
    rcases Nat.lt_or_ge r.budget ks.length with hb | hb
    · rw [driveClocks_pauses ks r.eng r.budget hb] at hended
      exact hended.elim
    · rw [driveClocks_ends ks r.eng r.budget hb, Run.plus, driveClocks_ends ks r.eng (r.budget + k) (by omega)]
      simp only [leftOver, Run.plus, EStateM.Result.ok.injEq, Run.mk.injEq, true_and]
      omega

/-- A loop that its budget bounds (assumption 1): a turn more of it changes nothing about its end. -/
theorem steady_of_turns {loop : Nat → Op α} (h : ∀ n, Steady (loop n)) (hmore : ∀ n m, Extends (loop n) (loop (n + m))) :
    Steady (fun r => loop (r.budget + 1) r) := by
  refine ⟨fun r => (h _).onward r, fun r k hended => ?_⟩
  have more := hmore (r.budget + 1) k r k hended
  rwa [Nat.add_right_comm] at more

end

/-! ## TAP operations, polls and checks (Machine/Ops.lean) -/

theorem writeResult_steady (v : Word) : Steady (writeResult v) :=
  .modify fun _ => ⟨rfl, rfl, rfl, rfl⟩

/-- TestReset ends with tap_shadow known, from wherever the TAP was (40_tap.md R94). -/
theorem testReset_steady : Steady testReset := by
  have resync : Steady (modifyEngine (setCable fun c => { c with shadow := some .testLogicReset })) :=
    modifyEngine_steady fun _ => ⟨fun _ => Option.some_ne_none _, fun h => ⟨h, rfl⟩⟩
  exact (driveClocks_steady _).seq <| resync.seq <| (driveClocks_steady _).seq <|
    .modify fun _ => ⟨rfl, rfl, rfl, rfl⟩

theorem setIR_steady (instr : Word) : Steady (setIR instr) := by
  refine .read fun e => ?_
  split
  next => exact raiseFault_steady _ instr
  next => exact .ite (.pure ()) ((driveClocks_steady _).seq (.modify fun _ => ⟨rfl, rfl, rfl, rfl⟩))

theorem rwData_steady (v : Word) : Steady (rwData v) :=
  (driveClocks_steady _).bind fun _ => .pure _

theorem selectControl_steady : Steady selectControl :=
  .read fun _ => setIR_steady _

theorem selectAddress_steady : Steady selectAddress :=
  .read fun _ => setIR_steady _

theorem selectData_steady : Steady selectData :=
  .read fun _ => setIR_steady _

theorem resetProcessor_steady : Steady resetProcessor :=
  selectControl_steady.seq <| .read fun _ => (rwData_steady _).seq <| (rwData_steady _).seq <| .pure ()

theorem checkTimeout_steady (iterations : Nat) (site : Word) : Steady (checkTimeout iterations site) := by
  refine .read fun e => ?_
  split
  next => exact .ite (raiseFault_steady _ site) (.pure ())
  next => exact .pure ()

section
variable {α : Type} {site : Word} {body : Op α} {ready : α → Bool}

theorem pollLoop_steady (h : Steady body) (turns i : Nat) : Steady (pollLoop site body ready turns i) := by
  induction turns generalizing i with
  | zero => exact pauseHere_steady
  | succ turns ih => exact h.bind fun _ => .ite (.pure _) ((checkTimeout_steady (i + 1) site).seq (ih (i + 1)))

theorem pollLoop_extends (h : Steady body) (turns more i : Nat) :
    Extends (pollLoop site body ready turns i) (pollLoop site body ready (turns + more) i) := by
  induction turns generalizing i with
  | zero => exact pauseHere_extends _
  | succ turns ih =>
    rw [Nat.add_right_comm]
    refine h.extends_self.bind fun x => ?_
    split
    next => exact (Steady.pure x).extends_self
    next => exact (checkTimeout_steady (i + 1) site).extends_self.bind fun _ => ih (i + 1)

theorem pollUntil_steady (h : Steady body) : Steady (pollUntil site body ready) :=
  steady_of_turns (fun n => pollLoop_steady h n 0) fun n m => pollLoop_extends h n m 0

end

theorem checkClass_steady (c : CommandClass) : Steady (checkClass c) := by
  have idle : Steady requireIdleTap := .read fun _ => .ite (.pure ()) (raiseWithCommand_steady _)
  cases c with
  | noClocks | selfSynchronising => exact .pure ()
  | drOnly => exact idle
  | irUsing => exact idle.seq (.read fun _ => .ite (raiseWithCommand_steady _) (.pure ()))

theorem requireFlash_steady : Steady requireFlash :=
  .read fun _ => .ite (raiseWithCommand_steady _) (.pure ())

theorem requireBypassPart_steady : Steady requireBypassPart :=
  .read fun _ => .ite (.pure ()) (raiseWithCommand_steady _)

theorem requireSpiPart_steady : Steady requireSpiPart :=
  .read fun _ => .ite (.pure ()) (raiseWithCommand_steady _)

theorem requireSpiLayout_steady : Steady requireSpiLayout :=
  .read fun _ => .ite (raiseWithCommand_steady _) (.pure ())

/-! ## Memory accesses (Machine/MemoryAccess.lean) -/

theorem setVregs_steady (f : VirtualRegs → VirtualRegs) : Steady (modifyEngine (setVregs f)) :=
  .modify fun _ => ⟨rfl, rfl, rfl, rfl⟩

theorem recordAccess_steady (a : Access) : Steady (modifyEngine (recordAccess a)) :=
  .modify fun _ => ⟨rfl, rfl, rfl, rfl⟩

theorem waitDma_steady (addr : Word) : Steady (waitDma addr) :=
  .read fun _ => .ite (.pure ()) ((pollUntil_steady (rwData_steady _)).seq (.pure ()))

theorem endDma_steady : Steady endDma :=
  selectControl_steady.seq <| .read fun _ => (rwData_steady _).bind fun _ => .pure _

theorem dmaReadAttempt_steady (addr : Word) (width : Width) : Steady (dmaReadAttempt addr width) :=
  selectAddress_steady.seq <| (rwData_steady addr).seq <| selectControl_steady.seq <| .read fun _ =>
    (rwData_steady _).seq <| (waitDma_steady addr).seq <| selectData_steady.seq <| (rwData_steady _).bind fun _ =>
      endDma_steady.bind fun _ => .pure _

theorem dmaWriteAttempt_steady (addr : Word) (width : Width) (v : Word) : Steady (dmaWriteAttempt addr width v) :=
  selectAddress_steady.seq <| (rwData_steady addr).seq <| selectData_steady.seq <| (rwData_steady _).seq <|
    selectControl_steady.seq <| .read fun _ => (rwData_steady _).seq <| (waitDma_steady addr).seq <|
      endDma_steady.bind fun _ => .pure _

theorem dmaAttempts_steady {attempt : Op (Word × Bool)} (h : Steady attempt) (n : Nat) :
    Steady (dmaAttempts attempt n) := by
  induction n with
  | zero => exact .pure _
  | succ n ih =>
    have exhausted (d : Word) : Steady (modifyEngine (setStatus exhaustedStatus) >>= fun _ => Pure.pure d) :=
      .seq (.modify fun _ => ⟨rfl, rfl, rfl, rfl⟩) (.pure d)
    exact h.bind fun x => .ite (.ite (exhausted x.1) ih) (.pure x.1)

theorem dmaRead_steady (addr : Word) (width : Width) : Steady (dmaRead addr width) :=
  (recordAccess_steady _).seq <| (dmaAttempts_steady (dmaReadAttempt_steady addr width) _).bind fun _ =>
    .read fun _ => by cases width <;> exact .pure _

theorem dmaWrite_steady (addr : Word) (width : Width) (v : Word) : Steady (dmaWrite addr width v) :=
  (recordAccess_steady _).seq <| (dmaAttempts_steady (dmaWriteAttempt_steady addr width v) _).seq <| .pure ()

theorem completeAccess_steady : Steady completeAccess :=
  selectControl_steady.seq <| .read fun _ => (rwData_steady _).seq <| .pure ()

theorem serveWrite_steady (a : Word) : Steady (serveWrite a) :=
  selectData_steady.seq <| (rwData_steady _).bind fun _ => (setVregs_steady _).seq <| completeAccess_steady.seq <|
    .modify fun _ => ⟨rfl, rfl, rfl, rfl⟩

theorem readValue_steady (words : List Word) (a : Word) : Steady (readValue words a) := by
  refine .read fun e => .ite ?_ (.ite (.pure _) (.ite (.pure _) (.pure _)))
  split
  next => exact .pure _
  next => exact raiseFault_steady _ a

theorem serveRead_steady (words : List Word) (term : Termination) (a : Word) : Steady (serveRead words term a) := by
  have supplied (d : Word) : Steady (supply d) :=
    selectData_steady.seq <| (rwData_steady d).seq <| (setVregs_steady _).seq completeAccess_steady
  exact (readValue_steady words a).bind fun x => (supplied x.1).seq (.pure _)

theorem serveAccess_steady (words : List Word) (term : Termination) (c a : Word) :
    Steady (serveAccess words term c a) :=
  .read fun _ => .ite ((serveWrite_steady a).seq (.pure false)) <|
    .ite ((setVregs_steady _).seq (.ite (.pure true) (serveRead_steady words term a))) (serveRead_steady words term a)

theorem serviceTurn_steady (words : List Word) (term : Termination) : Steady (serviceTurn words term) :=
  selectControl_steady.seq <| .bind (.read fun _ => pollUntil_steady (rwData_steady _)) fun c =>
    selectAddress_steady.seq <| (rwData_steady _).bind fun a => (serveAccess_steady words term c a).bind fun _ => .pure _

theorem serviceLoop_steady (words : List Word) (term : Termination) (turns serviced : Nat) :
    Steady (serviceLoop words term turns serviced) := by
  induction turns generalizing serviced with
  | zero => exact pauseHere_steady
  | succ turns ih =>
    rw [serviceLoop_succ]
    exact (serviceTurn_steady words term).bind fun x =>
      .ite (.pure ()) ((checkTimeout_steady (serviced + 1) x.1).seq (ih (serviced + 1)))

theorem serviceLoop_extends (words : List Word) (term : Termination) (turns more serviced : Nat) :
    Extends (serviceLoop words term turns serviced) (serviceLoop words term (turns + more) serviced) := by
  induction turns generalizing serviced with
  | zero => exact pauseHere_extends _
  | succ turns ih =>
    rw [Nat.add_right_comm, serviceLoop_succ, serviceLoop_succ]
    refine (serviceTurn_steady words term).extends_self.bind fun x => ?_
    split
    next => exact (Steady.pure ()).extends_self
    next => exact (checkTimeout_steady (serviced + 1) x.1).extends_self.bind fun _ => ih (serviced + 1)

theorem runModule_steady (m : ModuleId) (term : Termination) : Steady (runModule m term) := by
  have served (words : List Word) : Steady (serviceAccesses words term) :=
    steady_of_turns (fun n => serviceLoop_steady words term n 0) fun n k => serviceLoop_extends words term n k 0
  exact .read fun _ => .ite (raiseFault_steady _ _) ((setVregs_steady _).seq (served _))

theorem requireModules_steady (ms : List ModuleId) : Steady (requireModules ms) := by
  induction ms with
  | nil => exact .pure ()
  | cons m rest ih => exact .read fun _ => .ite (raiseFault_steady _ _) ih

theorem requireAccesses_steady (uses : List ModuleId) : Steady (requireAccesses uses) :=
  .read fun _ => .ite (.pure ()) (requireModules_steady uses)

theorem presentAddress_steady (addr : Word) : Steady (presentAddress addr) :=
  .modify fun _ => ⟨rfl, rfl, rfl, rfl⟩

theorem praccRead_steady (addr : Word) (width : Width) : Steady (praccRead addr width) :=
  (requireModules_steady _).seq <| (recordAccess_steady _).seq <| (presentAddress_steady addr).seq <|
    (runModule_steady _ _).seq <| .read fun _ => by cases width <;> exact .pure _

theorem praccWrite_steady (addr : Word) (width : Width) (v : Word) : Steady (praccWrite addr width v) :=
  (requireModules_steady _).seq <| (recordAccess_steady _).seq <| (presentAddress_steady addr).seq <|
    (setVregs_steady _).seq (runModule_steady _ _)

theorem memRead_steady (addr : Word) (width : Width) : Steady (memRead addr width) :=
  .read fun _ => .ite (dmaRead_steady addr width) (praccRead_steady addr width)

theorem memWrite_steady (addr : Word) (width : Width) (v : Word) : Steady (memWrite addr width v) :=
  .read fun _ => .ite (dmaWrite_steady addr width v) (praccWrite_steady addr width v)

theorem norWrite_steady (a : Word) (d : Half) : Steady (norWrite a d) :=
  memWrite_steady a .half _

theorem norRead_steady (a : Word) : Steady (norRead a) :=
  (memRead_steady a .half).bind fun _ => .pure _

end Sys2Proof.Machine
end

section
/-!
The flash sequences, the probe, the areas, the TAP commands and the single words of the other ports are `Steady` too,
and so is what every instruction runs.
-/

namespace Sys2Proof.Machine

variable {α : Type}

/-! ## Flash cycles (Machine/FlashCycles.lean) -/

theorem requireChangeAccesses_steady : Steady requireChangeAccesses :=
  .read fun _ => requireAccesses_steady _

theorem requireResetAccesses_steady : Steady requireResetAccesses :=
  .read fun _ => requireAccesses_steady _

theorem requireBypassAccesses_steady (entering : Bool) : Steady (requireBypassAccesses entering) :=
  .read fun _ => .ite (.pure ()) (requireAccesses_steady _)

theorem partCommands_steady : Steady partCommands :=
  .read fun _ => .pure _

theorem offsetCycle_steady (offset : Word) (d : Half) : Steady (offsetCycle offset d) :=
  .read fun _ => norWrite_steady _ d

theorem baseCycle_steady (d : Half) : Steady (baseCycle d) :=
  .read fun _ => norWrite_steady _ d

theorem amdUnlock_steady (t : AmdCommands) : Steady (amdUnlock t) :=
  (offsetCycle_steady t.unlock1Offset t.unlock1).seq (offsetCycle_steady t.unlock2Offset t.unlock2)

/-- A BSC/SCS cycle, whose datum is a parameter. -/
theorem bscCycle_steady (a : Word) (d : Params → Half) : Steady (getEngine >>= fun e => norWrite a (d e.cfg)) :=
  .read fun _ => norWrite_steady a _

theorem bscReadArray_steady : Steady bscReadArray :=
  .read fun _ => baseCycle_steady _

theorem bscReadId_steady : Steady bscReadId :=
  .read fun _ => baseCycle_steady _

theorem spiStart_steady (l : SpiLayout) (op : SpiOp) : Steady (spiStart l op) :=
  memWrite_steady _ .word _

theorem spiTransaction_steady (l : SpiLayout) (op : SpiOp) (addr data : Option Word) :
    Steady (spiTransaction l op addr data) := by
  have put (reg : Word) (v : Option Word) : Steady (spiPut reg v) := by
    cases v with
    | some v => exact memWrite_steady reg .word v
    | none => exact .pure ()
  exact (put _ addr).seq <| (put _ data).seq <| (spiStart_steady l op).seq <|
    (pollUntil_steady (memRead_steady _ .word)).seq (.pure ())

theorem spiQuery_steady (l : SpiLayout) (op : SpiOp) : Steady (spiQuery l op) :=
  (spiTransaction_steady l op none none).seq (memRead_steady _ .word)

theorem withSpiLayout_steady {f : SpiLayout → Op α} (h : ∀ l, Steady (f l)) : Steady (withSpiLayout f) := by
  refine .read fun e => ?_
  split
  next => exact h _
  next => exact raiseWithCommand_steady _

/-- WREN, an operation that changes the part, and the WIP poll (45_flash_spi.md R174, R175, R177). -/
theorem spiChange_steady (l : SpiLayout) (op : SpiOp) (addr data : Option Word) : Steady (do
    spiTransaction l .wren none none
    spiTransaction l op addr data
    spiWaitWip l) :=
  (spiTransaction_steady l .wren none none).seq <| (spiTransaction_steady l op addr data).seq <| .read fun _ =>
    (pollUntil_steady (spiQuery_steady l .rdsr)).seq (.pure ())

/-! ## Flash sequences (Machine/Flash.lean) -/

theorem setBypass_steady (b : Bool) : Steady (setBypass b) :=
  .modify fun _ => ⟨rfl, rfl, rfl, rfl⟩

theorem bypassEnter_steady : Steady bypassEnter :=
  .read fun _ => .ite (.pure ()) <| partCommands_steady.bind fun t => (amdUnlock_steady t).seq <|
    (offsetCycle_steady _ t.bypassEnter).seq (setBypass_steady true)

theorem bypassExit_steady : Steady bypassExit :=
  .read fun _ => .ite (partCommands_steady.bind fun t => (baseCycle_steady t.bypassExit1).seq <|
    (baseCycle_steady t.bypassExit2).seq (setBypass_steady false)) (.pure ())

theorem flashResetRead_steady : Steady flashResetRead := by
  have amd : Steady resetReadAmd :=
    bypassExit_steady.seq <| partCommands_steady.bind fun t => baseCycle_steady t.reset
  refine .read fun e => ?_
  cases e.flash.cmdType with
  | none => exact .pure ()
  | some kind =>
    cases kind with
    | amd | sst => exact amd
    | bsc | scs => exact bscReadArray_steady
    | spi => exact .pure ()

/-- The poll of a NOR part's status or datum. -/
theorem waitNor_steady (a : Word) (ready : Half → Bool) : Steady (do
    let _ ← pollUntil a (norRead a) ready
    pure ()) :=
  (pollUntil_steady (norRead_steady a)).seq (.pure ())

theorem eraseAmd_steady (t : AmdCommands) (a : Word) : Steady (eraseAmd t a) :=
  (amdUnlock_steady t).seq <| (offsetCycle_steady _ t.eraseSetup).seq <| (amdUnlock_steady t).seq <|
    (norWrite_steady a t.sectorErase).seq (.read fun _ => waitNor_steady a _)

theorem eraseBsc_steady (a : Word) : Steady (eraseBsc a) := by
  have wait : Steady (waitBscReady a) := .read fun _ => waitNor_steady a _
  exact (bscCycle_steady a (·.bsc.clearStatus)).seq <| (bscCycle_steady a (·.bsc.unlockSetup)).seq <|
    (bscCycle_steady a (·.bsc.confirm)).seq <| (bscCycle_steady a (·.bsc.readStatus)).seq <| wait.seq <|
    (bscCycle_steady a (·.bsc.clearStatus)).seq <| (bscCycle_steady a (·.bsc.eraseSetup)).seq <|
    (bscCycle_steady a (·.bsc.confirm)).seq <| (bscCycle_steady a (·.bsc.readStatus)).seq wait

theorem eraseBlock_steady (a : Word) : Steady (eraseBlock a) := by
  refine .seq (.read fun e => ?_) flashResetRead_steady
  cases e.flash.cmdType with
  | none => exact .pure ()
  | some kind =>
    cases kind with
    | amd | sst => exact bypassExit_steady.seq (eraseAmd_steady _ a)
    | bsc | scs => exact eraseBsc_steady a
    | spi => exact .read fun _ => withSpiLayout_steady fun l => spiChange_steady l .se _ none

theorem programHalfAmd_steady (a : Word) (h : Half) : Steady (programHalfAmd a h) := by
  have write : Steady (do
      norWrite a h
      let _ ← pollUntil a (norRead a) fun x => decide (x = h)
      pure ()) :=
    (norWrite_steady a h).seq (waitNor_steady a _)
  exact .read fun _ => partCommands_steady.bind fun t => .ite ((baseCycle_steady t.bypassProgram).seq write) <|
    (amdUnlock_steady t).seq <| (offsetCycle_steady _ t.program).seq write

theorem programHalfBsc_steady (a : Word) (h : Half) : Steady (programHalfBsc a h) :=
  (bscCycle_steady a (·.bsc.clearStatus)).seq <| (bscCycle_steady a (·.bsc.programSetup)).seq <|
    (norWrite_steady a h).seq (.read fun _ => waitNor_steady a _)

theorem programWordAmd_steady (a : Word) (h : Half × Half) : Steady (programWordAmd a h) := by
  have halves : Steady (programHalves a h) :=
    (programHalfAmd_steady a h.1).seq <| (programHalfAmd_steady _ h.2).seq <| .read fun _ =>
      .ite (.pure ()) flashResetRead_steady
  exact .read fun _ => .ite (bypassEnter_steady.seq halves) halves

theorem programWordBsc_steady (a : Word) (h : Half × Half) : Steady (programWordBsc a h) :=
  (programHalfBsc_steady a h.1).seq <| (programHalfBsc_steady _ h.2).seq flashResetRead_steady

theorem programWord_steady (a w : Word) : Steady (programWord a w) := by
  have spi : Steady (programSpi a w) := .read fun _ => withSpiLayout_steady fun l => spiChange_steady l .pp _ _
  refine .read fun e => ?_
  cases e.flash.cmdType with
  | none => exact programWordBsc_steady a _
  | some kind =>
    cases kind with
    | amd | sst => exact programWordAmd_steady a _
    | bsc | scs => exact programWordBsc_steady a _
    | spi => exact spi.seq flashResetRead_steady

/-! ## Probe, forced type and areas (Machine/Flash.lean, Machine/AreaOps.lean) -/

theorem readIds_steady : Steady readIds :=
  .read fun _ => (norRead_steady _).bind fun _ => (norRead_steady _).bind fun _ => .pure _

theorem disambiguate_steady (v d : Half) : Steady (disambiguate v d) := by
  have sub : Steady readSubId :=
    .read fun _ => (norRead_steady _).bind fun _ => (norRead_steady _).bind fun _ => .pure _
  exact .ite (sub.bind fun _ => .pure _) (.ite (sub.bind fun _ => .pure _) (.pure _))

theorem trialAmd_steady (t : AmdCommands) : Steady (trialAmd t) :=
  (amdUnlock_steady t).seq <| (offsetCycle_steady _ t.autoselect).seq <| readIds_steady.bind fun ids =>
    (disambiguate_steady ids.1 ids.2).bind fun _ => (baseCycle_steady t.reset).seq (.pure _)

theorem runTrial_steady (t : Trial) : Steady (runTrial t) := by
  refine .read fun e => ?_
  cases t with
  | amd | sst => exact trialAmd_steady _
  | bscScs => exact bscReadId_steady.seq <| readIds_steady.bind fun _ => bscReadArray_steady.seq (.pure _)
  | spi => exact withSpiLayout_steady fun l => (spiQuery_steady l .rdid).bind fun _ => .pure _

theorem runTrials_steady (ts : List Trial) (ids : Half × Half) : Steady (runTrials ts ids) := by
  induction ts generalizing ids with
  | nil => exact .pure _
  | cons t rest ih =>
    refine .read fun e => .ite (ih ids) ((runTrial_steady t).bind fun found => ?_)
    split
    next => exact .pure _
    next => exact ih found

theorem setIds_steady (vendor device : Half) :
    Steady (modifyEngine (setFlash fun f => { f with vendorId := vendor, deviceId := device })) :=
  .modify fun _ => ⟨rfl, rfl, rfl, rfl⟩

theorem probeFlash_steady : Steady probeFlash :=
  .seq (.read fun _ => requireAccesses_steady _) <| .seq (.modify fun _ => ⟨rfl, rfl, rfl, rfl⟩) <|
    (runTrials_steady _ _).bind fun x => (setIds_steady x.1.1 x.1.2).seq <|
      .seq (.modify (recordProbe_sameRecord x.2)) (writeResult_steady _)

theorem forceFlash_steady : Steady forceFlash := by
  refine .read fun e => ?_
  split
  next => exact raiseFault_steady _ _
  next d _ =>
    exact .seq (.modify fun _ => ⟨rfl, rfl, rfl, rfl⟩) <| (setIds_steady d.vendor d.device).seq <|
      .seq (.modify fun _ => ⟨rfl, rfl, rfl, rfl⟩) (writeResult_steady _)

theorem setArea_steady (f : Area → Area) : Steady (modifyEngine (setArea f)) :=
  .modify fun _ => ⟨rfl, rfl, rfl, rfl⟩

theorem selectArea_steady : Steady selectArea := by
  refine .read fun e => ?_
  split
  next => exact raiseFault_steady _ _
  next => exact (setArea_steady _).seq (writeResult_steady _)

theorem requireArea_steady : Steady requireArea :=
  .read fun _ => .ite (.pure ()) (raiseFault_steady _ _)

theorem requireStream_steady : Steady requireStream :=
  .read fun _ => .ite (.pure ()) (raiseWithCommand_steady _)

theorem guardSize_steady {checks body : Op Unit} (hc : Steady checks) (hb : Steady body) :
    Steady (guardSize checks body) := by
  have skipped (b : Bool) : Steady (setSkipped b) := .modify fun _ => ⟨rfl, rfl, rfl, rfl⟩
  exact .read fun _ => .ite (hc.seq <| (skipped false).seq hb) ((skipped true).seq (writeResult_steady _))

theorem backupWords_steady (left n : Nat) : Steady (backupWords left n) := by
  induction left generalizing n with
  | zero => exact .pure ()
  | succ left ih =>
    exact .read fun _ => (memRead_steady _ .word).bind fun _ => .seq (.modify fun _ => ⟨rfl, rfl, rfl, rfl⟩) (ih (n + 1))

theorem eraseBlocks_steady (blocks : List Word) : Steady (eraseBlocks blocks) := by
  induction blocks with
  | nil => exact .pure ()
  | cons a rest ih => exact (eraseBlock_steady a).seq ih

theorem programWords_steady (left n : Nat) : Steady (programWords left n) := by
  have take : Steady takeStreamWord := .read fun _ => .seq (.modify fun _ => ⟨rfl, rfl, rfl, rfl⟩) (.pure _)
  induction left generalizing n with
  | zero => exact .pure ()
  | succ left ih => exact take.bind fun taken => .read fun _ => (programWord_steady _ taken.1).seq (ih (n + 1))

theorem programArea_steady : Steady programArea := by
  have leave : Steady leaveBypass := .read fun _ => .ite bypassExit_steady (setBypass_steady false)
  exact .read fun _ => (programWords_steady _ 0).seq <| leave.seq <| flashResetRead_steady.seq <| writeResult_steady _

theorem endSession_steady : Steady endSession := by
  have returned (e : Engine) : Steady (returnFlash e) :=
    .ite (requireResetAccesses_steady.seq flashResetRead_steady) (.pure ())
  have rebooted (e : Engine) : Steady (rebootIfWanted e) := .ite resetProcessor_steady (.pure ())
  rw [endSession_eq]
  exact .read fun e => .seq ((returned e).seq (rebooted e)) <| (setBypass_steady false).seq testReset_steady

/-! ## The TAP and the session (Machine/Tap.lean) -/

theorem readId_steady (length : Nat) : Steady (readId length) :=
  .seq (.modify fun _ => ⟨rfl, rfl, rfl, rfl⟩) <| testReset_steady.seq <| .read fun _ =>
    (setIR_steady _).seq (rwData_steady _)

theorem scanTable_steady (table : List ProcDescriptor) (k : Nat) : Steady (scanTable table k) := by
  induction table generalizing k with
  | nil => exact .read fun _ => (readId_steady _).bind fun _ => .pure _
  | cons d rest ih => exact (readId_steady _).bind fun _ => .ite (.pure _) (ih (k + 1))

theorem recordId_steady (id : Word) (index : Option Nat) : Steady (recordId id index) :=
  .seq (.modify fun _ => ⟨rfl, rfl, rfl, rfl⟩) <| .seq (.modify fun _ => ⟨rfl, rfl, rfl, rfl⟩) (writeResult_steady id)

theorem detectProcessor_steady : Steady detectProcessor :=
  .read fun _ => .ite (raiseFault_steady _ _) <| .ite ((readId_steady _).bind fun _ => recordId_steady _ _) <|
    .seq (.modify fun _ => ⟨rfl, rfl, rfl, rfl⟩) <| (scanTable_steady _ 0).bind fun _ => recordId_steady _ _

theorem queryFeatures_steady : Steady queryFeatures :=
  .read fun _ => (setIR_steady _).seq <| (rwData_steady _).bind fun v =>
    .seq (.modify fun _ => ⟨rfl, rfl, rfl, rfl⟩) (writeResult_steady v)

theorem setIrLength_steady : Steady setIrLength :=
  .read fun _ => .ite (.modify fun _ => ⟨rfl, rfl, rfl, rfl⟩) (raiseFault_steady _ _)

theorem setAccessMode_steady : Steady setAccessMode := by
  refine .read fun e => ?_
  split
  next => exact raiseFault_steady _ _
  next => exact .modify fun _ => ⟨rfl, rfl, rfl, rfl⟩

theorem setWindow_steady : Steady setWindow :=
  .read fun _ => .ite (raiseFault_steady _ _) <| .seq (.modify fun _ => ⟨rfl, rfl, rfl, rfl⟩) <|
    .seq (.modify fun _ => ⟨rfl, rfl, rfl, rfl⟩) <| .ite (.pure ()) (.modify fun _ => ⟨rfl, rfl, rfl, rfl⟩)

theorem writeOptions_steady : Steady writeOptions := by
  refine .read fun e => ?_
  split
  next => exact raiseFault_steady _ _
  next => exact .modify fun _ => ⟨rfl, rfl, rfl, rfl⟩

/-! ## Single words of other ports, and the other commands (Machine/Cycles.lean, Memory.lean, TargetControl.lean) -/

theorem selectBypass_steady : Steady selectBypass := by
  refine .read fun e => ?_
  split
  next => exact setIR_steady _
  next => exact raiseWithCommand_steady _

theorem exchangeControl_steady (value : ControlBits → Word) : Steady (exchangeControl value) :=
  selectControl_steady.seq <| .read fun _ => (rwData_steady _).bind fun v => writeResult_steady v

theorem transact_steady (op : SpiOp) (addr data : Option Word) : Steady (transact op addr data) :=
  withSpiLayout_steady fun l => (requireAccesses_steady _).seq (spiTransaction_steady l op addr data)

theorem query_steady (op : SpiOp) : Steady (query op) :=
  withSpiLayout_steady fun l =>
    (requireAccesses_steady _).seq <| (spiQuery_steady l op).bind fun v => writeResult_steady v

theorem readCommand_steady {primitive : Word → Width → Op Word} (h : ∀ a width, Steady (primitive a width))
    (width : Width) : Steady (readCommand primitive width) :=
  .read fun _ => (h _ width).bind fun v => writeResult_steady v

theorem writeCommand_steady {primitive : Word → Width → Word → Op Unit}
    (h : ∀ a width v, Steady (primitive a width v)) (width : Width) : Steady (writeCommand primitive width) :=
  .read fun _ => h _ width _

theorem execSelectedModule_steady : Steady execSelectedModule := by
  refine .read fun e => ?_
  split
  next => exact raiseFault_steady _ _
  next m _ => exact runModule_steady m _

theorem setInDebug_steady (b : Bool) : Steady (setInDebug b) :=
  .modify fun _ => ⟨rfl, rfl, rfl, rfl⟩

theorem haltProcessor_steady : Steady haltProcessor :=
  selectControl_steady.seq <| .read fun _ => (rwData_steady _).seq <| (rwData_steady _).bind fun c =>
    (setInDebug_steady _).seq (writeResult_steady c)

/-! ## The instructions -/

/-- What every instruction is: a command of some class with a steady operation. -/
def RunsSteady (i : Instr) : Prop :=
  ∃ (c : CommandClass) (body : Op Unit), Steady body ∧ ∀ s, exec i s = runCommand i c body s

theorem runsSteady_command (i : Instr) (h : portOf 0 i = .command) : RunsSteady i := by
  cases i with
  | tapReset => exact ⟨_, _, testReset_steady, fun _ => rfl⟩
  | tapSetir => exact ⟨_, _, .read fun _ => setIR_steady _, fun _ => rfl⟩
  | tapRwdata => exact ⟨_, _, .read fun _ => (rwData_steady _).bind fun v => writeResult_steady v, fun _ => rfl⟩
  | tapRdata => exact ⟨_, _, (rwData_steady _).bind fun v => writeResult_steady v, fun _ => rfl⟩
  | tapWdata => exact ⟨_, _, .read fun _ => (rwData_steady _).seq (.pure ()), fun _ => rfl⟩
  | cfgIrlen => exact ⟨_, _, setIrLength_steady, fun _ => rfl⟩
  | detect => exact ⟨_, _, detectProcessor_steady, fun _ => rfl⟩
  | features => exact ⟨_, _, queryFeatures_steady, fun _ => rfl⟩
  | cfgAccess => exact ⟨_, _, setAccessMode_steady, fun _ => rfl⟩
  | cfgWindow => exact ⟨_, _, setWindow_steady, fun _ => rfl⟩
  | cfgOptions => exact ⟨_, _, writeOptions_steady, fun _ => rfl⟩
  | flashForce => exact ⟨_, _, forceFlash_steady, fun _ => rfl⟩
  | cfgCustomArea => exact ⟨_, _, .read fun _ => setArea_steady _, fun _ => rfl⟩
  | selectArea => exact ⟨_, _, selectArea_steady, fun _ => rfl⟩
  | procReset => exact ⟨_, _, resetProcessor_steady.seq (setInDebug_steady false), fun _ => rfl⟩
  | procHalt => exact ⟨_, _, haltProcessor_steady, fun _ => rfl⟩
  | procResume => exact ⟨_, _, (runModule_steady _ _).seq (setInDebug_steady false), fun _ => rfl⟩
  | depcRead => exact ⟨_, _, (runModule_steady _ _).seq (.read fun _ => writeResult_steady _), fun _ => rfl⟩
  | depcWrite =>
    exact ⟨_, _, (requireModules_steady _).seq <| .read fun _ => (setVregs_steady _).seq (runModule_steady _ _),
      fun _ => rfl⟩
  | memRead32 | memRead16 => exact ⟨_, _, readCommand_steady memRead_steady _, fun _ => rfl⟩
  | memWrite32 | memWrite16 => exact ⟨_, _, writeCommand_steady memWrite_steady _, fun _ => rfl⟩
  | dmaRead32 | dmaRead16 => exact ⟨_, _, readCommand_steady dmaRead_steady _, fun _ => rfl⟩
  | dmaWrite32 | dmaWrite16 => exact ⟨_, _, writeCommand_steady dmaWrite_steady _, fun _ => rfl⟩
  | praccRead32 | praccRead16 => exact ⟨_, _, readCommand_steady praccRead_steady _, fun _ => rfl⟩
  | praccWrite32 | praccWrite16 => exact ⟨_, _, writeCommand_steady praccWrite_steady _, fun _ => rfl⟩
  | execModule => exact ⟨_, _, execSelectedModule_steady, fun _ => rfl⟩
  | vregWrite =>
    exact ⟨_, _, .read fun _ => .ite (raiseFault_steady _ _) (.ite (setVregs_steady _) (setVregs_steady _)), fun _ => rfl⟩
  | vregRead => exact ⟨_, _, .read fun _ => .ite (raiseFault_steady _ _) (writeResult_steady _), fun _ => rfl⟩
  | flashProbe => exact ⟨_, _, probeFlash_steady, fun _ => rfl⟩
  | flashEraseBlock =>
    exact ⟨_, _, requireFlash_steady.seq <| requireSpiLayout_steady.seq <| requireChangeAccesses_steady.seq <|
      .read fun _ => eraseBlock_steady _, fun _ => rfl⟩
  | flashProgramWord =>
    exact ⟨_, _, requireFlash_steady.seq <| requireSpiLayout_steady.seq <| requireChangeAccesses_steady.seq <|
      .read fun _ => programWord_steady _ _, fun _ => rfl⟩
  | flashResetRead =>
    exact ⟨_, _, requireFlash_steady.seq <| requireSpiLayout_steady.seq <|
      requireResetAccesses_steady.seq flashResetRead_steady, fun _ => rfl⟩
  | flashBypassEnter =>
    exact ⟨_, _, requireFlash_steady.seq <| requireBypassPart_steady.seq <|
      (requireBypassAccesses_steady true).seq bypassEnter_steady, fun _ => rfl⟩
  | flashBypassExit =>
    exact ⟨_, _, requireFlash_steady.seq <| requireBypassPart_steady.seq <|
      (requireBypassAccesses_steady false).seq bypassExit_steady, fun _ => rfl⟩
  | spiChipErase =>
    exact ⟨_, _, requireFlash_steady.seq <| requireSpiPart_steady.seq <| requireSpiLayout_steady.seq <|
      requireChangeAccesses_steady.seq <| withSpiLayout_steady fun l => spiChange_steady l .be none none, fun _ => rfl⟩
  | areaBackup =>
    exact ⟨_, _, requireArea_steady.seq <| guardSize_steady (requireAccesses_steady _) <| requireStream_steady.seq <|
      .read fun _ => (backupWords_steady _ 0).seq (writeResult_steady _), fun _ => rfl⟩
  | areaErase =>
    exact ⟨_, _, requireArea_steady.seq <| requireSpiLayout_steady.seq <| guardSize_steady
      (.read fun _ => .ite (.pure ()) requireChangeAccesses_steady)
      (.read fun _ => (eraseBlocks_steady _).seq (writeResult_steady _)), fun _ => rfl⟩
  | areaProgram =>
    exact ⟨_, _, requireArea_steady.seq <| requireSpiLayout_steady.seq <|
      guardSize_steady requireChangeAccesses_steady (requireStream_steady.seq programArea_steady), fun _ => rfl⟩
  | sessionEnd => exact ⟨_, _, endSession_steady, fun _ => rfl⟩
  | _ => nomatch h

/-- The rows that are words of the other ports: a select, an exchange, a cycle or a transaction each. -/
theorem runsSteady_word (i : Instr) (h : portOf 0 i ≠ .command) : RunsSteady i := by
  cases i with
  | irIdcode | irImpcode | irAddress | irData | irControl | irAll | irEjtagboot | irNormalboot | irFastdata =>
    exact ⟨_, _, .read fun _ => setIR_steady _, fun _ => rfl⟩
  | irBypass => exact ⟨_, _, selectBypass_steady, fun _ => rfl⟩
  | ctlDmaRdW | ctlDmaRdH | ctlDmaWrW | ctlDmaWrH | ctlDmaPoll | ctlDmaEnd | ctlPraccPoll | ctlPraccDone | ctlHalt
  | ctlReset | ctlZero => exact ⟨_, _, exchangeControl_steady _, fun _ => rfl⟩
  | amdUnlock1 | amdUnlock2 | amdAutoselect | amdEraseSetup | amdProgram | amdBypassEnter | sstUnlock1 | sstUnlock2
  | sstAutoselect | sstEraseSetup | sstProgram =>
    exact ⟨_, _, .read fun _ => offsetCycle_steady _ _, fun _ => rfl⟩
  | amdBypassProgram | amdBypassExit1 | amdBypassExit2 | amdReset | sstReset =>
    exact ⟨_, _, .read fun _ => baseCycle_steady _, fun _ => rfl⟩
  | amdSectorErase | sstSectorErase => exact ⟨_, _, .read fun _ => norWrite_steady _ _, fun _ => rfl⟩
  | bscClearStatus => exact ⟨_, _, .read fun _ => bscCycle_steady _ (·.bsc.clearStatus), fun _ => rfl⟩
  | bscUnlockSetup => exact ⟨_, _, .read fun _ => bscCycle_steady _ (·.bsc.unlockSetup), fun _ => rfl⟩
  | bscConfirm => exact ⟨_, _, .read fun _ => bscCycle_steady _ (·.bsc.confirm), fun _ => rfl⟩
  | bscEraseSetup => exact ⟨_, _, .read fun _ => bscCycle_steady _ (·.bsc.eraseSetup), fun _ => rfl⟩
  | bscReadStatus => exact ⟨_, _, .read fun _ => bscCycle_steady _ (·.bsc.readStatus), fun _ => rfl⟩
  | bscProgramSetup => exact ⟨_, _, .read fun _ => bscCycle_steady _ (·.bsc.programSetup), fun _ => rfl⟩
  | bscReadId => exact ⟨_, _, bscReadId_steady, fun _ => rfl⟩
  | bscReadArray => exact ⟨_, _, bscReadArray_steady, fun _ => rfl⟩
  | spiWren | spiBe => exact ⟨_, _, transact_steady _ none none, fun _ => rfl⟩
  | spiSe | spiPp => exact ⟨_, _, .read fun _ => transact_steady _ _ _, fun _ => rfl⟩
  | spiRdsr | spiRdid => exact ⟨_, _, query_steady _, fun _ => rfl⟩
  | spiWrenBroadcomCtrl | spiRdsrBroadcomCtrl | spiSeBroadcomCtrl | spiPpBroadcomCtrl | spiRdidBroadcomCtrl
  | spiBeBroadcomCtrl => exact ⟨_, _, .read fun _ => spiStart_steady _ _, fun _ => rfl⟩
  | _ => exact absurd rfl h

theorem runsSteady (i : Instr) : RunsSteady i := by
  by_cases h : portOf 0 i = .command
  · exact runsSteady_command i h
  · exact runsSteady_word i h

end Sys2Proof.Machine
end

section
/-!
What the step takes from `Steady`: a fault stays recorded until block reset (60_exceptions.md R191), a command that ends
leaves the TAP at rest (R190), and where it is cut into steps does not matter (assumption 1).
-/

namespace Sys2Proof.Machine

section
variable {i : Instr} {s t : State}

/-! ## A command from where it started -/

theorem settle_toEngine (i : Instr) (s : State) (start : Engine) (budget : Nat) (res : EStateM.Result Stop Run Unit) :
    (settle i s start budget res).toEngine = (reached res).eng := by
  match res with
  | .ok _ _ | .error .faulted _ | .error .paused _ => rfl

/-- Refused, ended or paused: the engine comes after the one the command started in. -/
theorem exec_onward (h : exec i s = .next t) : Onward (startPoint i s).1 t.toEngine := by
  obtain ⟨c, body, hbody, hexec⟩ := runsSteady i
  rw [hexec, runCommand] at h
  split at h
  next =>
    cases h
    exact .refl _
  next =>
    cases h
    rw [settle_toEngine]
    exact ((checkClass_steady c).seq hbody).onward { eng := (startPoint i s).1, budget := (startPoint i s).2 }

theorem startPoint_busy {r : Running} (hbusy : s.running = some r) :
    startPoint r.instr s = (r.start, r.budget + s.cfg.clocksPerStep + 1) := by
  simp only [startPoint, hbusy, if_true]

/-! ## The fault record (60_exceptions.md R191) -/

/-- FAULTED is set and FAULT_CODE is as in `s`. -/
def StillFaulted (s t : State) : Prop :=
  t.status.faulted = true ∧ t.status.faultCode = s.status.faultCode

theorem exec_stillFaulted_of_idle (hidle : s.running = none) (hf : s.status.faulted = true) (h : exec i s = .next t) :
    StillFaulted s t := by
  have later := exec_onward h
  rw [startPoint_idle hidle] at later
  exact later.record hf

/-- A command in progress began with the same fault record. -/
theorem exec_stillFaulted_of_busy {r : Running} (hs : Inv s) (hbusy : s.running = some r)
    (hf : s.status.faulted = true) (h : exec r.instr s = .next t) : StillFaulted s t := by
  have began := hs.running r hbusy
  have later := exec_onward h
  rw [startPoint_busy hbusy] at later
  obtain ⟨hfaulted, hcode⟩ := later.record (began.faulted.trans hf)
  exact ⟨hfaulted, hcode.trans began.faultCode⟩

theorem startCommand_stillFaulted {w : Word} (hidle : s.running = none) (hf : s.status.faulted = true)
    (h : startCommand w s = .next t) : StillFaulted s t := by
  unfold startCommand at h
  split at h
  next => exact exec_stillFaulted_of_idle (s := withCommandWord w s) hidle hf h
  next =>
    rw [rejectCommand_of_faulted (s := withCommandWord w s) hf] at h
    cases h
    exact ⟨hf, rfl⟩

theorem presentWord_stillFaulted {p : Port} {w : Word} (hidle : s.running = none) (hf : s.status.faulted = true)
    (h : presentWord p w s = .next t) : StillFaulted s t := by
  unfold presentWord at h
  split at h
  next => exact startCommand_stillFaulted hidle hf h
  next =>
    split at h
    next => exact exec_stillFaulted_of_idle hidle hf h
    next =>
      cases h
      exact ⟨hf, rfl⟩

theorem hostTurn_stillFaulted {act : HostAction} (hidle : s.running = none) (hf : s.status.faulted = true)
    (hact : act ≠ .blockReset) (h : hostTurn act s = .next t) : StillFaulted s t := by
  cases act with
  | blockReset => exact absurd rfl hact
  | writeA | writeB | awaitIdle | openStreams =>
    cases h
    exact ⟨hf, rfl⟩
  | writeCmd w => exact startCommand_stillFaulted hidle hf h
  | present p w => exact presentWord_stillFaulted hidle hf h

theorem busyTurn_stillFaulted {r : Running} (hs : Inv s) (hbusy : s.running = some r) (hf : s.status.faulted = true)
    (hact : s.host.head? ≠ some .blockReset) (h : busyTurn r s = .next t) : StillFaulted s t := by
  have goesOn (hexec : exec r.instr s = .next t) : StillFaulted s t := exec_stillFaulted_of_busy hs hbusy hf hexec
  cases hhost : s.host with
  | nil =>
    rw [busyTurn, hhost] at h
    exact goesOn h
  | cons act rest =>
    rw [busyTurn, hhost] at h
    cases act with
    | blockReset => exact absurd (congrArg List.head? hhost) hact
    | writeA | writeB | writeCmd =>
      cases h
      exact ⟨hf, rfl⟩
    | awaitIdle | openStreams | present => exact goesOn h

end

/-- Settles O4: no host action but block reset, and no command, takes the fault record away. -/
theorem faultSticky : Obligations.FaultSticky := by
  intro s t hs hf hact h
  obtain hidle | ⟨r, hbusy⟩ := Option.eq_none_or_eq_some s.running
  · cases hhost : s.host with
    | nil =>
      rw [step_idle_nil hidle hhost] at h
      cases h
      exact ⟨hf, rfl⟩
    | cons act rest =>
      rw [step_idle_cons hidle hhost] at h
      have other : act ≠ .blockReset := fun hreset => hact (by rw [hhost, hreset]; rfl)
      exact hostTurn_stillFaulted (s := { s with host := rest }) hidle hf other h
  · rw [step_of_busy hbusy] at h
    exact busyTurn_stillFaulted hs hbusy hf hact h

/-! ## The TAP at the end of a command (60_exceptions.md R190) -/

/-- A known tap_shadow stays known, and one that rests and is known is RUN_TEST_IDLE. -/
theorem exec_ends_resting {i : Instr} {s t : State} (hs : Inv s) (hi : ∀ r, s.running = some r → r.instr = i)
    (h : exec i s = .next t) (hended : t.running = none) :
    restingTap t.toEngine
      ∧ ((startPoint i s).1.cable.shadow = some .runTestIdle → t.cable.shadow = some .runTestIdle) := by
  obtain ⟨hinv, -⟩ := exec_keeps hs hi h
  have rests := hinv.resting hended
  refine ⟨rests, fun hstart => rests.resolve_left ?_⟩
  exact (exec_onward h).known (by simp [hstart])

/-- Settles O5: a command begins where it starts in this step, or where the command in progress began. -/
theorem idleTapStaysIdle : Obligations.IdleTapStaysIdle := by
  refine ⟨fun i s t hs hidle h hended => ?_, fun r s t hs hbusy h hended => ?_⟩
  · have ends := exec_ends_resting hs (no_running hidle) h hended
    rwa [startPoint_idle hidle] at ends
  · have same : ∀ r', s.running = some r' → r'.instr = r.instr := by simp [hbusy]
    have ends := exec_ends_resting hs same h hended
    rwa [startPoint_busy hbusy] at ends

/-! ## The cut into steps (assumption 1) -/

/-- Only a pause leaves a command in progress. -/
theorem ended_of_settle {i : Instr} {s : State} {start : Engine} {budget : Nat} {res : EStateM.Result Stop Run Unit}
    (h : (settle i s start budget res).running = none) : Ended res := by
  cases res with
  | ok _ _ => trivial
  | error stop _ =>
    cases stop with
    | faulted => trivial
    | paused => exact absurd h (Option.some_ne_none _)

/-- The state after a command that has ended depends neither on its clocks nor on where the engine stood. -/
theorem settle_leftOver {i : Instr} {s s' : State} {start start' : Engine} {budget budget' k : Nat}
    {res : EStateM.Result Stop Run Unit} (hhost : s'.host = s.host) (h : Ended res) :
    settle i s' start' budget' (leftOver k res) = settle i s start budget res := by
  cases res with
  | ok _ _ => simp only [leftOver, settle, Run.plus, hhost]
  | error stop _ =>
    cases stop with
    | faulted => simp only [leftOver, settle, Run.plus, hhost]
    | paused => exact h.elim

/-- The state in which the command `i`, begun at `s`, is gone on with after `k` clocks, whatever engine `e` the cut
left. -/
def cutAfter (i : Instr) (e : Engine) (k : Nat) (s : State) : State :=
  { s with toEngine := e, running := some { instr := i, start := s.toEngine, budget := k } }

theorem startPoint_cutAfter {i : Instr} {e : Engine} {k : Nat} {s : State} (hcfg : e.cfg = s.cfg) :
    startPoint i (cutAfter i e k s) = (s.toEngine, k + clocksAllowed s) := by
  rw [clocksAllowed, ← hcfg]
  exact startPoint_busy (s := cutAfter i e k s) rfl

/-- Settles O12: the command is run again from where it began, with the clocks of this step and `k` more. -/
theorem cutDoesNotMatter : Obligations.CutDoesNotMatter := by
  intro i s t e k hidle hcfg h hended
  obtain ⟨c, body, hbody, hexec⟩ := runsSteady i
  change exec i (cutAfter i e k s) = .next t
  rw [hexec, runCommand, startPoint_cutAfter hcfg, Nat.add_comm]
  rw [hexec, runCommand, startPoint_idle hidle] at h
  split at h
  next hrefused => rw [if_pos hrefused, ← h, ← hidle]; rfl
  next hrun =>
    rw [if_neg hrun, ← h]
    cases h
    have done := ended_of_settle hended
    have more := ((checkClass_steady c).seq hbody).extends_self _ k done
    exact congrArg _ ((congrArg _ more).trans (settle_leftOver rfl done))

end Sys2Proof.Machine
end

section
/-!
Polls of RWData that are never ready (60_exceptions.md R193, R194): an operation comes to such a poll along a script
(`ComesTo`), and there it takes F_TIMEOUT at the bound, or drives what clocks are left and stalls (`Stalls`).
-/

namespace Sys2Proof.Machine

variable {α β γ : Type} {length : Nat} {e e' e'' : Engine} {p q : List Exchange}

/-! ## Coming to an operation along a script -/

/-- Along a script that the target answers as wanted, the operation comes to `op'` in engine `e'`, with more to do after
it. -/
def ComesTo (op : Op α) (length : Nat) (e : Engine) (script : List Exchange) (op' : Op γ) (e' : Engine) : Prop :=
  Tracks length script e e' ∧ (e.tap.irLength = some length →
    answered length e.cable 0 e.tap.irCache script = true →
      ∀ b, (scriptClocks length e.tap.irCache script).length ≤ b → ∃ more : γ → Op α,
        op { eng := e, budget := b }
          = (op' >>= more) { eng := e', budget := b - (scriptClocks length e.tap.irCache script).length })

theorem ComesTo.refl (op : Op α) (length : Nat) (e : Engine) : ComesTo op length e [] op e :=
  ⟨⟨rfl, rfl⟩, fun _ _ b _ => ⟨pure, by rw [bind_pure]; rfl⟩⟩

theorem ComesTo.bind {op : Op α} {op' : Op γ} (h : ComesTo op length e p op' e') (f : α → Op β) :
    ComesTo (op >>= f) length e p op' e' := by
  obtain ⟨ht, h⟩ := h
  refine ⟨ht, fun hl ha b hb => ?_⟩
  obtain ⟨more, hmore⟩ := h hl ha b hb
  exact ⟨fun x => more x >>= f, by rw [bind_run, hmore, ← bind_run, bind_assoc]⟩

/-! What is left of a script after a first part of it. -/

theorem answered_of_tracks (ht : Tracks length p e e') (ha : answered length e.cable 0 e.tap.irCache (p ++ q) = true) :
    answered length e.cable 0 e.tap.irCache p = true ∧ answered length e'.cable 0 e'.tap.irCache q = true := by
  obtain ⟨hcable, htap⟩ := ht
  rw [answered_append, Bool.and_eq_true, Nat.zero_add] at ha
  refine ⟨ha.1, ?_⟩
  rw [hcable, htap, afterScript_cable, answered_driven]
  exact ha.2

theorem scriptClocks_of_tracks (ht : Tracks length p e e') :
    (scriptClocks length e.tap.irCache (p ++ q)).length
      = (scriptClocks length e.tap.irCache p).length + (scriptClocks length e'.tap.irCache q).length := by
  obtain ⟨-, htap⟩ := ht
  rw [scriptClocks_append, List.length_append, htap]
  rfl

theorem Tracks.irLength (ht : Tracks length p e e') (hl : e.tap.irLength = some length) :
    e'.tap.irLength = some length := by
  obtain ⟨-, htap⟩ := ht
  rw [htap]
  exact hl

theorem Tracks.append (h : Tracks length p e e') (k : Tracks length q e' e'') : Tracks length (p ++ q) e e'' := by
  obtain ⟨hcable, htap⟩ := h
  obtain ⟨hcable', htap'⟩ := k
  constructor
  · rw [hcable', afterScript_cable, htap, hcable, afterScript_append]
    rfl
  · rw [htap', afterScript_tap, htap, afterScript_append]
    rfl

theorem ComesTo.trans {δ : Type} {op : Op α} {op' : Op γ} {op'' : Op δ} (h : ComesTo op length e p op' e')
    (k : ComesTo op' length e' q op'' e'') : ComesTo op length e (p ++ q) op'' e'' := by
  obtain ⟨ht, h⟩ := h
  obtain ⟨ht', k⟩ := k
  refine ⟨ht.append ht', fun hl ha b hb => ?_⟩
  obtain ⟨hap, haq⟩ := answered_of_tracks ht ha
  rw [scriptClocks_of_tracks ht] at hb ⊢
  obtain ⟨more, hmore⟩ := h hl hap b (by omega)
  obtain ⟨more', hmore'⟩ := k (ht.irLength hl) haq (b - (scriptClocks length e.tap.irCache p).length) (by omega)
  refine ⟨fun x => more' x >>= more, ?_⟩
  rw [hmore, bind_run, hmore', ← bind_run, bind_assoc, Nat.sub_sub]

/-- An operation that ends, and what comes after it. -/
theorem Does.comesTo {op : Op α} {f : α → Op β} {op' : Op γ} {x : α} (h : Does op length e p x e')
    (ht : Tracks length p e e') (k : ComesTo (f x) length e' q op' e'') :
    ComesTo (op >>= f) length e (p ++ q) op' e'' := by
  refine ComesTo.trans (op' := f x) ⟨ht, fun hl ha b hb => ⟨pure, ?_⟩⟩ k
  rw [bind_run, h hl ha b hb, bind_pure]

/-- An operation without clocks, before a script. -/
theorem Ends.comesTo {op : Op α} {f : α → Op β} {op' : Op γ} {x : α} (h : Ends op e 0 x e')
    (ht : e'.cable = e.cable ∧ e'.tap = e.tap) (k : ComesTo (f x) length e' q op' e'') :
    ComesTo (op >>= f) length e q op' e'' :=
  Does.comesTo (p := []) (fun _ _ => h) ht k

theorem ComesTo.congr {op : Op α} {op' : Op γ} (h : ComesTo op length e p op' e') (hp : p = q) (he : e' = e'') :
    ComesTo op length e q op' e'' := by
  subst hp he
  exact h

/-- A script's answers may be used while it is followed. -/
theorem ComesTo.assuming {op : Op α} {op' : Op γ} (ht : Tracks length p e e')
    (h : answered length e.cable 0 e.tap.irCache p = true → ComesTo op length e p op' e') :
    ComesTo op length e p op' e' :=
  ⟨ht, fun hl ha => (h ha).2 hl ha⟩

/-- Where the operation comes to takes a fault. -/
theorem ComesTo.fails {op : Op α} {op' : Op γ} (h : ComesTo op length e p op' e') (k : Fails op' length e' q e'') :
    Fails op length e (p ++ q) e'' := by
  obtain ⟨ht, h⟩ := h
  intro hl ha b hb
  obtain ⟨hap, haq⟩ := answered_of_tracks ht ha
  rw [scriptClocks_of_tracks ht] at hb ⊢
  obtain ⟨more, hmore⟩ := h hl hap b (by omega)
  rw [hmore, k.bind (ht.irLength hl) haq _ (by omega), Nat.sub_sub]

/-! ## Stalling -/

/-- Along a script that the target answers as wanted, the operation comes to an RWData of `turn` in engine `e'`, and with
too few clocks left for it drives these and pauses. -/
def Stalls (op : Op α) (length : Nat) (e : Engine) (script : List Exchange) (turn : Word) (e' : Engine) : Prop :=
  e.tap.irLength = some length → answered length e.cable 0 e.tap.irCache script = true →
    ∀ b, (scriptClocks length e.tap.irCache script).length ≤ b →
      b < (scriptClocks length e.tap.irCache script).length + 37 →
        op { eng := e, budget := b } = .error .paused {
          eng := setCable
            (driven ((drSequence turn).take (b - (scriptClocks length e.tap.irCache script).length))) e'
          budget := 0 }

theorem Stalls.bind {op : Op α} {turn : Word} (h : Stalls op length e p turn e') (f : α → Op β) :
    Stalls (op >>= f) length e p turn e' := by
  intro hl ha b hb hb'
  rw [bind_run, h hl ha b hb hb']

theorem rwData_stalls (length : Nat) (v : Word) (e : Engine) : Stalls (rwData v) length e [] v e :=
  Stalls.bind (fun _ _ b _ hb => driveClocks_pauses (drSequence v) e b (by simpa [scriptClocks] using hb)) _

/-- Where the operation comes to stalls. -/
theorem ComesTo.stalls {op : Op α} {op' : Op γ} {turn : Word} (h : ComesTo op length e p op' e')
    (k : Stalls op' length e' q turn e'') : Stalls op length e (p ++ q) turn e'' := by
  obtain ⟨ht, h⟩ := h
  intro hl ha b hb hb'
  obtain ⟨hap, haq⟩ := answered_of_tracks ht ha
  rw [scriptClocks_of_tracks ht] at hb hb' ⊢
  obtain ⟨more, hmore⟩ := h hl hap b (by omega)
  rw [hmore, k.bind more (ht.irLength hl) haq _ (by omega) (by omega), Nat.sub_sub]

/-! ## The poll -/

section
variable {v site : Word} {ready busy : Word → Bool} {n : Nat}

/-- Turns that are not ready, with no bound among them. -/
theorem pollLoop_comesTo (h0 : ∀ w, busy w = true → ready w = false) (turns fuel i : Nat)
    (hp : ∀ bound, pollBound e.cfg = some bound → i + turns < bound) :
    ComesTo (pollLoop site (rwData v) ready (turns + fuel) i) length e (List.replicate turns (.swap v busy))
      (pollLoop site (rwData v) ready fuel (i + turns))
      (afterScript length (List.replicate turns (.swap v busy)) e) := by
  induction turns generalizing i e with
  | zero =>
    rw [Nat.zero_add]
    exact .refl _ length e
  | succ turns ih =>
    refine .assuming (Tracks.afterScript ..) fun ha => ?_
    have hr := h0 _ (wanted_of_answered ha)
    have next : i + (turns + 1) = i + 1 + turns := by omega
    rw [next] at hp ⊢
    rw [Nat.add_right_comm, List.replicate_succ, ← List.singleton_append, afterScript_append]
    refine (rwData_does length v busy e).comesTo (Tracks.afterScript ..) ?_
    rw [hr, if_neg Bool.false_ne_true]
    have later := ih (e := afterScript length [.swap v busy] e) (i + 1) (by rwa [afterScript_cfg])
    refine Ends.comesTo (checkTimeout_ends fun bound hb => ?_) ⟨rfl, rfl⟩ later
    rw [afterScript_cfg] at hb
    exact Nat.lt_of_le_of_lt (Nat.le_add_right _ _) (hp bound hb)

/-- The budget has a turn for every one that is driven, and one more. -/
theorem pollTurns_le {b : Nat} {cache : Option Word}
    (hb : (scriptClocks length cache (List.replicate n (.swap v busy))).length ≤ b) : n ≤ b := by
  rw [scriptClocks_replicate_swap_length] at hb
  omega

/-- A poll that is not ready for as many turns as its bound takes F_TIMEOUT. -/
theorem pollUntil_rwData_gives_up (h0 : ∀ w, busy w = true → ready w = false) (hp : pollBound e.cfg = some n) :
    Fails (pollUntil site (rwData v) ready) length e (List.replicate n (.swap v busy))
      (faultedEngine .timeout site (afterScript length (List.replicate n (.swap v busy)) e)) := by
  obtain ⟨m, rfl⟩ : ∃ m, n = m + 1 := by
    simp only [pollBound, Option.map_eq_some_iff] at hp
    obtain ⟨m, -, rfl⟩ := hp
    exact ⟨m, rfl⟩
  have last (fuel : Nat) (e : Engine) (hp : pollBound e.cfg = some (m + 1)) :
      Fails (pollLoop site (rwData v) ready (fuel + 1) (0 + m)) length e [.swap v busy]
        (faultedEngine .timeout site (afterScript length [.swap v busy] e)) := by
    intro hl ha
    have hr := h0 _ (wanted_of_answered ha)
    refine Does.fails (q := []) (rwData_does length v busy e) (Tracks.afterScript ..) ?_ hl ha
    have bound : pollBound (afterScript length [.swap v busy] e).cfg = some (m + 1) := by rwa [afterScript_cfg]
    rw [hr, if_neg Bool.false_ne_true]
    exact (Fails.of_raises (checkTimeout_raises bound (by omega))).bind
  intro hl ha b hb
  have turns : b + 1 = m + (b - m + 1) := by
    have := pollTurns_le hb
    omega
  have before := pollLoop_comesTo (length := length) (site := site) (v := v) (e := e) h0 m (b - m + 1) 0
    fun bound hb => by rw [hp] at hb; cases hb; omega
  rw [List.replicate_succ', afterScript_append] at *
  rw [pollUntil, turns]
  exact before.fails (last (b - m) _ (by rwa [afterScript_cfg])) hl ha b hb

/-- A poll without a bound stalls, after any number of turns. -/
theorem pollUntil_rwData_stalls (h0 : ∀ w, busy w = true → ready w = false) (hp : pollBound e.cfg = none) :
    Stalls (pollUntil site (rwData v) ready) length e (List.replicate n (.swap v busy)) v
      (afterScript length (List.replicate n (.swap v busy)) e) := by
  have stalls (fuel i : Nat) (e : Engine) : Stalls (pollLoop site (rwData v) ready (fuel + 1) i) length e [] v e :=
    (rwData_stalls length v e).bind _
  intro hl ha b hb
  have turns : b + 1 = n + (b - n + 1) := by
    have := pollTurns_le hb
    omega
  have before := pollLoop_comesTo (length := length) (site := site) (v := v) (e := e) h0 n (b - n + 1) 0
    fun bound hb => by rw [hp] at hb; cases hb
  have all := before.stalls (stalls (b - n) _ _)
  rw [List.append_nil] at all
  rw [pollUntil, turns]
  exact all hl ha b hb

end

/-! ## The two poll sites -/

/-- The DSTRT poll is not skipped (41_memory_access.md R114, R116). -/
theorem waitDma_eq (addr : Word) (hskip : skipsDstrtPoll e.cfg e.session = false) (b : Nat) :
    waitDma addr { eng := e, budget := b }
      = (pollUntil addr (rwData (ctlDmaPoll e.cfg.ctl)) (fun c => !c.getLsbD e.cfg.ctl.dstrt) >>= fun _ => pure ())
          { eng := e, budget := b } := by
  simp only [waitDma, bind_run, getEngine, hskip, Bool.false_eq_true, if_false]

theorem not_ready_of_dstrt {n : Nat} (w : Word) (h : bitIs n true w = true) : (!w.getLsbD n) = false := by
  simpa [bitIs] using h

theorem waitDma_gives_up {n : Nat} (addr : Word) (hskip : skipsDstrtPoll e.cfg e.session = false)
    (hp : pollBound e.cfg = some n) :
    Fails (waitDma addr) length e (List.replicate n (dstrtTurn e.cfg true))
      (faultedEngine .timeout addr (afterScript length (List.replicate n (dstrtTurn e.cfg true)) e)) :=
  fun hl ha b hb => (waitDma_eq addr hskip b).trans
    ((pollUntil_rwData_gives_up not_ready_of_dstrt hp).bind hl ha b hb)

theorem waitDma_stalls (n : Nat) (addr : Word) (hskip : skipsDstrtPoll e.cfg e.session = false)
    (hp : pollBound e.cfg = none) :
    Stalls (waitDma addr) length e (List.replicate n (dstrtTurn e.cfg true)) (ctlDmaPoll e.cfg.ctl)
      (afterScript length (List.replicate n (dstrtTurn e.cfg true)) e) :=
  fun hl ha b hb hb' => (waitDma_eq addr hskip b).trans
    ((pollUntil_rwData_stalls not_ready_of_dstrt hp).bind _ hl ha b hb hb')

/-- A turn of the pending poll that finds PRACC = 0 (42_debug_executor.md R135). -/
def praccTurn (p : Params) : Exchange :=
  .swap (ctlPraccPoll p.ctl) (bitIs p.ctl.pracc false)

theorem waitingScript_eq (p : Params) (n : Nat) :
    waitingScript p n = [.select p.ir.control] ++ List.replicate n (praccTurn p) := rfl

theorem not_ready_of_pracc {n : Nat} (w : Word) (h : bitIs n false w = true) : w.getLsbD n = false := by
  simpa [bitIs] using h

theorem waitPending_gives_up {n : Nat} (hp : pollBound e.cfg = some n) :
    Fails waitPending length e (List.replicate n (praccTurn e.cfg))
      (faultedEngine .timeout e.cfg.debugVector (afterScript length (List.replicate n (praccTurn e.cfg)) e)) :=
  Fails.after (getEngine_ends e) ⟨rfl, rfl⟩ (pollUntil_rwData_gives_up not_ready_of_pracc hp)

theorem waitPending_stalls (n : Nat) (hp : pollBound e.cfg = none) :
    Stalls waitPending length e (List.replicate n (praccTurn e.cfg)) (ctlPraccPoll e.cfg.ctl)
      (afterScript length (List.replicate n (praccTurn e.cfg)) e) :=
  ((getEngine_ends e).comesTo ⟨rfl, rfl⟩ (.refl _ length e)).stalls (pollUntil_rwData_stalls not_ready_of_pracc hp)

/-! ## From the start of a command to the DSTRT poll (41_memory_access.md R114) -/

/-- An attempt of the access drives its start and then polls DSTRT. -/
def StartsAs (attempt : Op (Word × Bool)) (length : Nat) (access : Access) (addr : Word) : Prop :=
  ∀ e, ComesTo attempt length e (startScript e.cfg access) (waitDma addr)
    (afterScript length (startScript e.cfg access) e)

theorem dmaReadAttempt_startsAs (length : Nat) (addr : Word) (width : Width) :
    StartsAs (dmaReadAttempt addr width) length (.read width addr) addr := by
  intro e
  refine ComesTo.congr ((selectAddress_does length e).comesTo (Tracks.afterScript ..)
    ((rwData_does length addr anyReply _).comesTo (Tracks.afterScript ..)
      ((selectControl_does length _).comesTo (Tracks.afterScript ..)
        ((getEngine_ends _).comesTo ⟨rfl, rfl⟩
          ((rwData_does length _ anyReply _).comesTo (Tracks.afterScript ..)
            ((ComesTo.refl (waitDma addr) length _).bind _)))))) rfl ?_
  simp only [← afterScript_append]
  rfl

theorem dmaWriteAttempt_startsAs (length : Nat) (addr : Word) (width : Width) (v : Word) :
    StartsAs (dmaWriteAttempt addr width v) length (.write width addr (busValue width v)) addr := by
  intro e
  refine ComesTo.congr ((selectAddress_does length e).comesTo (Tracks.afterScript ..)
    ((rwData_does length addr anyReply _).comesTo (Tracks.afterScript ..)
      ((selectData_does length _).comesTo (Tracks.afterScript ..)
        ((rwData_does length _ anyReply _).comesTo (Tracks.afterScript ..)
          ((selectControl_does length _).comesTo (Tracks.afterScript ..)
            ((getEngine_ends _).comesTo ⟨rfl, rfl⟩
              ((rwData_does length _ anyReply _).comesTo (Tracks.afterScript ..)
                ((ComesTo.refl (waitDma addr) length _).bind _)))))))) rfl ?_
  simp only [← afterScript_append]
  rfl

/-- Attempts that fail lead to the next one. -/
theorem dmaAttempts_comesTo {attempt : Op (Word × Bool)} {access : Access} {datum : Word → Word}
    (h : Attempts attempt length access datum) {failed : List (Nat × Word)} (n : Nat)
    (hp : ∀ y ∈ failed, patient e.cfg y.1) :
    ComesTo (dmaAttempts attempt (failed.length + (n + 1))) length e (failingScript e access failed)
      attempt (afterScript length (failingScript e access failed) e) := by
  induction failed generalizing e with
  | nil =>
    rw [List.length_nil, Nat.zero_add]
    exact (ComesTo.refl attempt length e).bind _
  | cons y rest ih =>
    have cut : failingScript e access (y :: rest) = failingScript e access [y] ++ failingScript e access rest :=
      failingScript_append e access [y] rest
    have first := h y.1 true y.2 e (hp y (List.mem_cons_self ..))
    rw [← failingScript_singleton] at first
    have again := ih (e := afterScript length (failingScript e access [y]) e)
      fun z hz => hp z (List.mem_cons_of_mem _ hz)
    rw [cut, afterScript_append, List.length_cons, Nat.add_right_comm]
    refine first.comesTo (Tracks.afterScript ..) ?_
    rw [if_pos rfl, if_neg (by omega)]
    exact again

/-- The operation of a command makes this DMA access, and begins with it. -/
def AccessesByDma (body : Op Unit) (length : Nat) (e : Engine) (access : Access) (addr : Word) : Prop :=
  ∃ attempt datum, Attempts attempt length access datum ∧ StartsAs attempt length access addr
    ∧ ComesTo body length e [] (dmaAttempts attempt Config.dmaAttempts) (recordAccess access e)

theorem readCommand_accesses (length : Nat) (width : Width) (e : Engine) :
    AccessesByDma (readCommand dmaRead width) length e (.read width e.regs.a) e.regs.a :=
  ⟨_, _, dmaReadAttempt_attempts length e.regs.a width, dmaReadAttempt_startsAs length e.regs.a width,
    (getEngine_ends e).comesTo ⟨rfl, rfl⟩ (.bind (Ends.comesTo (modifyEngine_ends _ e) ⟨rfl, rfl⟩
      (.bind (.refl _ length _) _)) _)⟩

theorem writeCommand_accesses (length : Nat) (width : Width) (e : Engine) :
    AccessesByDma (writeCommand dmaWrite width) length e (.write width e.regs.a (busValue width e.regs.b)) e.regs.a :=
  ⟨_, _, dmaWriteAttempt_attempts length e.regs.a width e.regs.b,
    dmaWriteAttempt_startsAs length e.regs.a width e.regs.b,
    (getEngine_ends e).comesTo ⟨rfl, rfl⟩ (Ends.comesTo (modifyEngine_ends _ e) ⟨rfl, rfl⟩
      (.bind (.refl _ length _) _))⟩

theorem AccessesByDma.of_run {body body' : Op Unit} {access : Access} {addr : Word}
    (h : AccessesByDma body length e access addr)
    (hrun : ∀ b, body' { eng := e, budget := b } = body { eng := e, budget := b }) :
    AccessesByDma body' length e access addr := by
  obtain ⟨attempt, datum, hattempts, hstart, ht, hcomes⟩ := h
  exact ⟨attempt, datum, hattempts, hstart, ht, fun hl ha b hb => (hrun b).symm ▸ hcomes hl ha b hb⟩

/-- MemRead and MemWrite under the DMA strategy (R109). -/
theorem memReadCommand_accesses (length : Nat) (width : Width) (hd : e.session.useDma = true) :
    AccessesByDma (readCommand memRead width) length e (.read width e.regs.a) e.regs.a :=
  (readCommand_accesses length width e).of_run fun b => by
    simp only [readCommand, memRead, bind_run, getEngine, hd, if_true]

theorem memWriteCommand_accesses (length : Nat) (width : Width) (hd : e.session.useDma = true) :
    AccessesByDma (writeCommand memWrite width) length e (.write width e.regs.a (busValue width e.regs.b)) e.regs.a :=
  (writeCommand_accesses length width e).of_run fun b => by
    simp only [writeCommand, memWrite, bind_run, getEngine, hd, if_true]

/-- The access comes to its DSTRT poll at any attempt it has. -/
theorem AccessesByDma.comesTo {body : Op Unit} {access : Access} {addr : Word} {failed : List (Nat × Word)}
    (h : AccessesByDma body length e access addr) (hn : failed.length < 16) (hp : ∀ y ∈ failed, patient e.cfg y.1) :
    ComesTo body length e (failingScript e access failed ++ startScript e.cfg access) (waitDma addr)
      (afterScript length (failingScript e access failed ++ startScript e.cfg access) (recordAccess access e)) := by
  obtain ⟨attempt, datum, hattempts, hstart, hbody⟩ := h
  have attempts : Config.dmaAttempts = failed.length + (15 - failed.length + 1) := by
    rw [Config.dmaAttempts]
    omega
  rw [attempts] at hbody
  rw [afterScript_append]
  exact hbody.trans ((dmaAttempts_comesTo (e := recordAccess access e) hattempts (15 - failed.length) hp).trans
    (hstart _))

end Sys2Proof.Machine
end

section
/-!
F_TIMEOUT at the DSTRT poll, the pending poll and the service bound (60_exceptions.md R193, 42_debug_executor.md R142),
and the command that stays busy in a poll without a bound (R194).
-/

namespace Sys2Proof.Machine

section
variable {length : Nat} {s : State} {i : Instr} {body : Op Unit} {script : List Exchange} {n : Nat}

/-! ## Faults along a script -/

/-- The first fault of a command, along its script. -/
theorem exec_faults {e : Engine} {code : FaultCode} {info : Word} (h : ready length s)
    (hexec : exec i s = runCommand i .irUsing body s)
    (hb : Fails body length s.toEngine script (faultedEngine code info e)) (hstatus : e.status = s.status)
    (hf : follows length script s) : exec i s = .next (ending (faultEntry code info e) s) := by
  have clear : e.status.faulted = false := by
    rw [hstatus]
    exact h.1.2
  rw [hexec, runCommand_fails h hb hf, faultedEngine_of_not_faulted clear]

/-! ## The DSTRT poll (41_memory_access.md R114) -/

theorem AccessesByDma.gives_up {e : Engine} {access : Access} {addr : Word} {failed : List (Nat × Word)}
    (h : AccessesByDma body length e access addr) (hn : failed.length < 16) (hp : ∀ y ∈ failed, patient e.cfg y.1)
    (hskip : skipsDstrtPoll e.cfg e.session = false) (hbound : pollBound e.cfg = some n) :
    Fails body length e
      (failingScript e access failed ++ startScript e.cfg access ++ List.replicate n (dstrtTurn e.cfg true))
      (faultedEngine .timeout addr (afterScript length
        (failingScript e access failed ++ startScript e.cfg access ++ List.replicate n (dstrtTurn e.cfg true))
        (recordAccess access e))) := by
  rw [afterScript_append]
  exact (h.comesTo hn hp).fails (waitDma_gives_up (e := afterScript length
    (failingScript e access failed ++ startScript e.cfg access) (recordAccess access e)) addr hskip hbound)

theorem AccessesByDma.stalls {e : Engine} {access : Access} {addr : Word} (h : AccessesByDma body length e access addr)
    (hskip : skipsDstrtPoll e.cfg e.session = false) (hbound : pollBound e.cfg = none) (n : Nat) :
    Stalls body length e (startScript e.cfg access ++ List.replicate n (dstrtTurn e.cfg true)) (ctlDmaPoll e.cfg.ctl)
      (afterScript length (startScript e.cfg access ++ List.replicate n (dstrtTurn e.cfg true))
        (recordAccess access e)) := by
  have comes := h.comesTo (failed := []) (by decide) (List.forall_mem_nil _)
  rw [afterScript_append]
  exact comes.stalls (waitDma_stalls (e := afterScript length (startScript e.cfg access) (recordAccess access e)) n addr
    hskip hbound)

/-- The commands that make one DMA access, each with its access: the four DMA_* commands, and under the DMA strategy the
four MEM_* commands (41_memory_access.md R109). -/
def DmaCommand (s : State) (i : Instr) (access : Access) : Prop :=
  ∃ body, (∀ s', exec i s' = runCommand i .irUsing body s') ∧ ∀ length, AccessesByDma body length s.toEngine access s.regs.a

theorem dmaCommands : ∀ x ∈ [(Instr.dmaRead32, Instr.memRead32, Access.read .word s.regs.a),
    (.dmaRead16, .memRead16, .read .half s.regs.a), (.dmaWrite32, .memWrite32, .write .word s.regs.a s.regs.b),
    (.dmaWrite16, .memWrite16, .write .half s.regs.a (hw16 (lowHalf s.regs.b)))],
    DmaCommand s x.1 x.2.2 ∧ (s.session.useDma = true → DmaCommand s x.2.1 x.2.2) := by
  simp only [List.forall_mem_cons, List.not_mem_nil, false_implies, implies_true, and_true]
  refine ⟨⟨⟨_, fun _ => rfl, ?_⟩, fun hd => ⟨_, fun _ => rfl, ?_⟩⟩,
    ⟨⟨_, fun _ => rfl, ?_⟩, fun hd => ⟨_, fun _ => rfl, ?_⟩⟩, ⟨⟨_, fun _ => rfl, ?_⟩, fun hd => ⟨_, fun _ => rfl, ?_⟩⟩,
    ⟨⟨_, fun _ => rfl, ?_⟩, fun hd => ⟨_, fun _ => rfl, ?_⟩⟩⟩
  · exact fun length => readCommand_accesses length .word _
  · exact fun length => memReadCommand_accesses length .word hd
  · exact fun length => readCommand_accesses length .half _
  · exact fun length => memReadCommand_accesses length .half hd
  · exact fun length => writeCommand_accesses length .word _
  · exact fun length => memWriteCommand_accesses length .word hd
  · exact fun length => writeCommand_accesses length .half _
  · exact fun length => memWriteCommand_accesses length .half hd

/-! ## The executor (42_debug_executor.md R135, R142) -/

section
variable {e : Engine} {m : ModuleId} {words : List Word} {term : Termination} {run : List Service} {x : Service}

theorem serviceLoop_comesTo_pending (words : List Word) (term : Termination) (turns serviced : Nat) (e : Engine) :
    ComesTo (serviceLoop words term (turns + 1) serviced) length e [.select e.cfg.ir.control] waitPending
      (afterScript length [.select e.cfg.ir.control] e) := by
  rw [serviceLoop_succ]
  exact (Does.comesTo (selectControl_does length e) (Tracks.afterScript ..)
    ((ComesTo.refl waitPending length _).bind _)).bind _

/-- The pending poll gives up. -/
theorem serviceLoop_pending_gives_up (turns serviced : Nat) (hbound : pollBound e.cfg = some n) :
    Fails (serviceLoop words term (turns + 1) serviced) length e (waitingScript e.cfg n)
      (faultedEngine .timeout e.cfg.debugVector (afterScript length (waitingScript e.cfg n) e)) := by
  rw [waitingScript_eq, afterScript_append]
  exact (serviceLoop_comesTo_pending words term turns serviced e).fails
    (waitPending_gives_up (e := afterScript length [.select e.cfg.ir.control] e) hbound)

/-- The access that the service bound allows is served, and no more (R142). -/
theorem serviceLoop_bound_gives_up (turns serviced : Nat) (hl : serviceLegal e.cfg words e.vregs x)
    (hx : ¬ Reenters e.cfg term e.vregs x) (hlast : suppliesLast e.cfg words term x = false)
    (hbound : pollBound e.cfg = some (serviced + 1)) :
    Fails (serviceLoop words term (turns + 1) serviced) length e (serviceScript e.cfg words e.vregs x)
      (faultedEngine .timeout (serviceAddress x) (afterService length words x e)) := by
  rw [serviceLoop_succ]
  refine Fails.congr ((serviceTurn_does hl hx).fails (Tracks.setVregs ..) ?_) (List.append_nil _)
  rw [hlast, if_neg Bool.false_ne_true]
  exact (Fails.of_raises (checkTimeout_raises (e := afterService length words x e) hbound (Nat.le_refl _))).bind

theorem serviceAccesses_pending_gives_up (hl : runLegal e.cfg words e.vregs run)
    (hx : StaysIn e.cfg words term e.vregs run) (hbound : pollBound e.cfg = some n) (hn : run.length < n)
    (hscript : script = runScript e.cfg words e.vregs run ++ waitingScript e.cfg n) :
    Fails (serviceAccesses words term) length e script (faultedEngine .timeout e.cfg.debugVector
      (setVregs (fun v => runRegs e.cfg words v run) (afterScript length script e))) := by
  subst hscript
  have served : patient e.cfg run.length := fun bound hb => by rw [hbound] at hb; cases hb; exact hn
  rw [afterScript_append]
  exact serviceAccesses_fails_run hl hx served fun turns =>
    serviceLoop_pending_gives_up (e := afterRun length words run e) turns _ hbound

theorem staysIn_append {p : Params} {v : VirtualRegs} {rest : List Service} :
    StaysIn p words term v (run ++ rest)
      ↔ StaysIn p words term v run ∧ StaysIn p words term (runRegs p words v run) rest := by
  induction run generalizing v with
  | nil => exact (true_and _).to_iff.symm
  | cons x run ih =>
    rw [List.cons_append, StaysIn, ih, StaysIn, runRegs]
    exact and_assoc.symm

theorem serviceAccesses_bound_gives_up (hl : runLegal e.cfg words e.vregs run)
    (hx : StaysIn e.cfg words term e.vregs run) (hbound : pollBound e.cfg = some run.length)
    (hlast : run.getLast? = some x) (hscript : script = runScript e.cfg words e.vregs run) :
    Fails (serviceAccesses words term) length e script (faultedEngine .timeout (serviceAddress x)
      (setVregs (fun v => runRegs e.cfg words v run) (afterScript length script e))) := by
  subst hscript
  obtain ⟨before, rfl⟩ := List.getLast?_eq_some_iff.mp hlast
  obtain ⟨hlBefore, hlLast, -⟩ := runLegal_append.mp hl
  obtain ⟨hxBefore, ⟨hnot, hnotLast⟩, -⟩ := staysIn_append.mp hx
  rw [List.length_append, List.length_singleton] at hbound
  have served : patient e.cfg before.length := fun bound hb => by rw [hbound] at hb; cases hb; omega
  have fails := serviceAccesses_fails_run (length := length) hlBefore hxBefore served fun turns =>
    serviceLoop_bound_gives_up (e := afterRun length words before e) turns _ hlLast hnot hnotLast hbound
  have after : afterService length words x (afterRun length words before e)
      = afterRun length words (before ++ [x]) e := by
    rw [afterRun_append, afterRun_cons]
    rfl
  rw [after] at fails
  exact fails.congr (by rw [runScript_append, runScript, runScript, List.append_nil]; rfl)

end

end

/-- Settles O35: the DSTRT poll of each command, and the two ways a module run takes F_TIMEOUT. -/
theorem pollTimeouts : Obligations.PollTimeouts := by
  intro length s n h hbound
  refine ⟨fun hskip x hx i failed script hi hn hp hscript hf => ?dstrt, ?executor⟩
  case dstrt =>
    obtain ⟨hdma, hmem⟩ := dmaCommands x hx
    have hcommand : DmaCommand s i x.2.2 := by
      obtain rfl | ⟨hd, rfl⟩ := hi
      · exact hdma
      · exact hmem hd
    obtain ⟨body, hexec, haccess⟩ := hcommand
    exact exec_faults (e := afterScript length script (recordAccess x.2.2 s.toEngine)) h (hexec s)
      (hscript ▸ (haccess length).gives_up hn hp hskip hbound) rfl hf
  case executor =>
    rintro m words v run script hm hreturn hw hsome rfl hl hvector
    have stays : StaysIn s.cfg words (terminationOf m) { s.vregs with vectorReads := 0 } run :=
      staysIn_of_termination rfl (fun _ => hvector) fun h4 => absurd h4 hreturn
    refine ⟨fun hn hscript hf => ?pending, fun x hn hlast hscript hf => ?bound⟩
    case pending =>
      exact exec_faults (e := setVregs _ (afterScript length script (restarted s.toEngine))) h rfl
        (execSelectedModule_fails hm (runModule_fails_accesses hw hsome
          (serviceAccesses_pending_gives_up (e := restarted s.toEngine) hl stays hbound hn hscript))) rfl hf
    case bound =>
      exact exec_faults (e := setVregs _ (afterScript length script (restarted s.toEngine))) h rfl
        (execSelectedModule_fails hm (runModule_fails_accesses hw hsome
          (serviceAccesses_bound_gives_up (e := restarted s.toEngine) hl stays (hn ▸ hbound) hlast hscript))) rfl hf

end Sys2Proof.Machine
end

section
/-!
A command that stays busy in a poll without a bound, step after step (60_exceptions.md R194): the step that begins it and
every later one drive the clocks allowed so far, from where the command began.
-/

namespace Sys2Proof.Machine

section
variable {length n : Nat} {s s' : State} {i : Instr} {body : Op Unit} {script : List Exchange} {turn : Word}
  {e e' : Engine}

/-! ## A step of a command that stalls -/

/-- The state in which the command that began at `s` stands when its clocks, `budget` of them so far, have run out in an
RWData of `turn`, `driving` clocks after its start. -/
def stalledAt (i : Instr) (budget driving : Nat) (turn : Word) (e : Engine) (s : State) : State :=
  { s with
    toEngine := setCable (driven ((drSequence turn).take (budget - driving))) e
    running := some { instr := i, start := s.toEngine, budget := budget } }

/-- In the command's first step `s'` is `s` itself, later it is a state in which the command is in progress. -/
theorem runCommand_stalls {budget : Nat} (h : ready length s) (hstart : startPoint i s' = (s.toEngine, budget))
    (hhost : s'.host = s.host) (hb : Stalls body length s.toEngine script turn e')
    (ha : answered length s.cable 0 s.tap.irCache script = true)
    (hle : (scriptClocks length s.tap.irCache script).length ≤ budget)
    (hlt : budget < (scriptClocks length s.tap.irCache script).length + 37) :
    runCommand i .irUsing body s'
      = .next (stalledAt i budget (scriptClocks length s.tap.irCache script).length turn e' s) := by
  have checks := checkClass_irUsing h
  obtain ⟨⟨-, hclear⟩, -, hlength⟩ := h
  have comes : ComesTo (checkClass .irUsing >>= fun _ => body) length s.toEngine [] body s.toEngine :=
    checks.comesTo ⟨rfl, rfl⟩ (.refl body length s.toEngine)
  have stalls := comes.stalls hb hlength ha budget hle hlt
  simp only [runCommand, hstart, hclear, Bool.false_and, Bool.false_eq_true, if_false]
  rw [stalls, settle, hhost]
  rfl

/-! ## The executor's first pending poll (42_debug_executor.md R135) -/

/-- The operation is another one, run from an engine with the same cable and TAP. -/
theorem Stalls.of_run {op op' : Op Unit} {e₀ : Engine} (h : Stalls op length e₀ script turn e')
    (ht : e₀.cable = e.cable ∧ e₀.tap = e.tap)
    (hrun : ∀ b, op' { eng := e, budget := b } = op { eng := e₀, budget := b }) :
    Stalls op' length e script turn e' := by
  obtain ⟨hcable, htap⟩ := ht
  intro hl ha b hb hb'
  rw [← htap] at hl ha hb hb' ⊢
  rw [← hcable] at ha
  exact (hrun b).trans (h hl ha b hb hb')

theorem serviceAccesses_stalls (words : List Word) (term : Termination) (hbound : pollBound e.cfg = none) :
    Stalls (serviceAccesses words term) length e (waitingScript e.cfg n) (ctlPraccPoll e.cfg.ctl)
      (afterScript length (waitingScript e.cfg n) e) := by
  rw [waitingScript_eq, afterScript_append]
  exact fun hl ha b => (serviceLoop_comesTo_pending words term b 0 e).stalls
    (waitPending_stalls (e := afterScript length [.select e.cfg.ir.control] e) n hbound) hl ha b

theorem execSelectedModule_stalls {m : ModuleId} (hm : moduleIdOf e.regs.a = some m) (hw : moduleWords e.cfg m ≠ [])
    (hbound : pollBound e.cfg = none) :
    Stalls execSelectedModule length e (waitingScript e.cfg n) (ctlPraccPoll e.cfg.ctl)
      (afterScript length (waitingScript e.cfg n) (restarted e)) := by
  refine (serviceAccesses_stalls (e := restarted e) (moduleWords e.cfg m) (terminationOf m) hbound).of_run ⟨rfl, rfl⟩
    fun b => ?_
  rw [← runModule_run rfl hw]
  simp only [execSelectedModule, bind_run, getEngine, hm]
  rfl

/-! ## The DSTRT poll (41_memory_access.md R114) -/

theorem dmaCommand_of_mem {x : Instr × Access} (hx : x ∈ [(Instr.dmaRead32, Access.read .word s.regs.a),
    (.dmaRead16, .read .half s.regs.a), (.dmaWrite32, .write .word s.regs.a s.regs.b),
    (.dmaWrite16, .write .half s.regs.a (hw16 (lowHalf s.regs.b)))]) : DmaCommand s x.1 x.2 := by
  have all := dmaCommands (s := s)
  simp only [List.forall_mem_cons, List.not_mem_nil, false_implies, implies_true, and_true] at all
  obtain ⟨⟨r32, -⟩, ⟨r16, -⟩, ⟨w32, -⟩, w16, -⟩ := all
  revert x
  simp only [List.forall_mem_cons, List.not_mem_nil, false_implies, implies_true, and_true]
  exact ⟨r32, r16, w32, w16⟩

end

/-- Settles O36: both commands stall in their polls, in the first step and when gone on with. -/
theorem pollStaysBusy : Obligations.PollStaysBusy := by
  rintro length s i n budget driving script turn engine last h hbound hsite ha rfl hle hlt rfl
  have hbody : ∃ body, (∀ s', exec i s' = runCommand i .irUsing body s')
      ∧ Stalls body length s.toEngine script turn (afterScript length script engine) := by
    obtain ⟨x, hx, rfl, hskip, rfl, rfl, rfl⟩ | ⟨m, hm, hw, rfl, rfl, rfl, rfl⟩ := hsite
    · obtain ⟨body, hexec, haccess⟩ := dmaCommand_of_mem hx
      exact ⟨body, hexec, (haccess length).stalls hskip hbound n⟩
    · exact ⟨execSelectedModule, fun _ => rfl, execSelectedModule_stalls hm hw hbound⟩
  obtain ⟨body, hexec, hstalls⟩ := hbody
  have goesOn {s' : State} (hstart : startPoint i s' = (s.toEngine, budget)) (hhost : s'.host = s.host) :=
    (hexec s').trans (runCommand_stalls h hstart hhost hstalls ha hle hlt)
  refine ⟨fun hb => goesOn ?first rfl, fun e k hcfg hb => goesOn (s' := cutAfter i e k s) ?later rfl⟩
  case first => rw [startPoint_idle h.1.1, hb]
  case later => rw [startPoint_cutAfter hcfg, hb]

end Sys2Proof.Machine
end

section
/-!
The polls of the flash sequences through DMA (60_exceptions.md R193; 44_flash_parallel.md R162-R167, 45_flash_spi.md R172,
R173): an operation comes to a poll after some accesses, goes on past it with others, or takes F_TIMEOUT there (`PollsAt`).
-/

namespace Sys2Proof.Machine

/-- A poll of accesses: where it times out, what a turn issues for the word its last read captures, and whether that
word is ready. -/
structure Poll where
  site : Word
  turn : Word → List (Access × Word)
  isReady : Word → Bool

/-- After the accesses `before` the operation comes to the poll: with as many turns not ready as the bound allows it takes
F_TIMEOUT, with fewer it ends after the accesses `rest`; `e'` is the engine with what else the operation changes. -/
def PollsAt (p : Poll) (op : Op Unit) (length : Nat) (e e' : Engine) (before rest : List (Access × Word)) : Prop :=
  ∀ busy : List Word, (∀ v ∈ busy, p.isReady v = false) →
    (pollBound e.cfg = some busy.length → e.session.useDma = true →
      Fails op length e (busScript e (before ++ busy.flatMap p.turn))
        (faultedEngine .timeout p.site (afterBus length (before ++ busy.flatMap p.turn) e')))
    ∧ ∀ v, patient e.cfg busy.length → p.isReady v = true →
      Issues op length e (before ++ busy.flatMap p.turn ++ p.turn v ++ rest) ()
        (afterBus length (before ++ busy.flatMap p.turn ++ p.turn v ++ rest) e')

section
variable {length : Nat} {e e' e₁ : Engine} {p : Poll} {op : Op Unit} {before rest xs ys : List (Access × Word)}

/-! ## Rules -/

theorem PollsAt.listed (h : PollsAt p op length e e' xs ys) (hbefore : xs = before) (hrest : ys = rest) :
    PollsAt p op length e e' before rest := by
  subst hbefore hrest
  exact h

/-- The poll itself. -/
theorem pollUntil_pollsAt {α : Type} {body : Op α} {value : Word → α} {ready : α → Bool}
    (h : Turns body length e p.turn value) (hturn : ∀ v, p.turn v ≠ [])
    (hready : ∀ v, ready (value v) = p.isReady v) :
    PollsAt p (do let _ ← pollUntil p.site body ready; pure ()) length e e [] [] := by
  intro busy hbusy
  have hbusy' : ∀ v ∈ busy, ready (value v) = false := fun v hv => (hready v).trans (hbusy v hv)
  refine ⟨fun hbound hd => (pollUntil_gives_up h hturn busy hbusy' hd hbound).bind, fun v hpatient hv => ?_⟩
  rw [List.append_nil, List.nil_append]
  exact (pollUntil_turns h hturn busy v hbusy' ((hready v).trans hv) hpatient).yielding fun _ => ()

/-- Accesses before it, which leave the engine changed otherwise too. -/
theorem PollsAt.also {α : Type} {first : Op α} {f : α → Op Unit} {x : α}
    (h : Issues first length e xs x (afterBus length xs e₁)) (he : SameBus e e₁)
    (k : PollsAt p (f x) length (afterBus length xs e₁) (afterBus length xs e') before rest) :
    PollsAt p (first >>= f) length e e' (xs ++ before) rest := by
  have bus := he.continues length xs
  obtain ⟨hcable, htap, hcfg, hsession⟩ := bus
  intro busy hbusy
  obtain ⟨timeout, goesOn⟩ := k busy hbusy
  rw [hcfg, hsession] at timeout
  rw [hcfg] at goesOn
  simp only [List.append_assoc] at goesOn timeout ⊢
  refine ⟨fun hbound hd => ?_, fun v hpatient hv => h.also he ?_⟩
  · have fails := timeout hbound hd
    rw [busScript_congr hcfg hsession] at fails
    rw [busScript_append, afterBus_append]
    exact (h hd).fails ⟨hcable, htap⟩ fails
  · exact goesOn v hpatient hv

/-- Accesses before it that change nothing else. -/
theorem PollsAt.next {α : Type} {first : Op α} {f : α → Op Unit} {x : α}
    (h : Issues first length e xs x (afterBus length xs e))
    (k : PollsAt p (f x) length (afterBus length xs e) (afterBus length xs e') before rest) :
    PollsAt p (first >>= f) length e e' (xs ++ before) rest :=
  .also h ⟨rfl, rfl, rfl, rfl⟩ k

/-- An operation without accesses before it. -/
theorem PollsAt.after {α : Type} {first : Op α} {f : α → Op Unit} {x : α} (h : Issues first length e [] x e)
    (k : PollsAt p (f x) length e e' before rest) : PollsAt p (first >>= f) length e e' before rest := by
  refine .next (xs := []) (x := x) ?_ ?_
  · rwa [afterBus_nil]
  · rwa [afterBus_nil, afterBus_nil]

theorem PollsAt.get {f : Engine → Op Unit} (k : PollsAt p (f e) length e e' before rest) :
    PollsAt p (getEngine >>= f) length e e' before rest :=
  .after (fun _ _ _ => getEngine_ends e) k

/-- Accesses after it. -/
theorem PollsAt.andThen {f : Unit → Op Unit} (h : PollsAt p op length e e' before rest) (he : SameBus e e')
    (k : ∀ items, Issues (f ()) length (afterBus length items e') ys ()
      (afterBus length ys (afterBus length items e'))) :
    PollsAt p (op >>= f) length e e' before (rest ++ ys) := by
  intro busy hbusy
  obtain ⟨timeout, goesOn⟩ := h busy hbusy
  refine ⟨fun hbound hd => (timeout hbound hd).bind, fun v hpatient hv => ?_⟩
  rw [← List.append_assoc]
  exact (goesOn v hpatient hv).also he (k _)

/-! ## The site of a command -/

/-- The command takes the fault that its poll takes, or ends as its operation does. -/
theorem PollsAt.pollSite {s : State} {i : Instr} {flash : Flash} {body : Op Unit} (h : ready length s)
    (k : PollsAt p body length s.toEngine { s.toEngine with flash := flash } before rest)
    (hexec : exec i s = runCommand i .irUsing body s) :
    pollSite length s i p.site flash before p.turn p.isReady rest := by
  intro busy items hbusy
  obtain ⟨timeout, goesOn⟩ := k busy hbusy
  constructor
  · rintro hbound rfl hs
    obtain ⟨hd, hf⟩ := hs
    exact exec_faults (e := afterBus length _ { s.toEngine with flash := flash }) h hexec (timeout hbound hd) rfl hf
  · rintro v hpatient hv rfl hs
    exact hexec.trans (runCommand_issues h (goesOn v hpatient hv) hs)

/-! ## Checks before the sequence (44_flash_parallel.md R160) -/

theorem PollsAt.checked {α : Type} {check : Op α} {f : α → Op Unit} {x : α} (h : Ends check e 0 x e)
    (k : PollsAt p (f x) length e e' before rest) : PollsAt p (check >>= f) length e e' before rest :=
  .after (fun _ _ _ => h) k

theorem checkedChange_polls {ms : List ModuleId} (hpart : Changeable e ms)
    (k : PollsAt p op length e e' before rest) :
    PollsAt p (do requireFlash; requireSpiLayout; requireChangeAccesses; op) length e e' before rest :=
  .checked (requireFlash_ends hpart.part) (.checked (requireSpiLayout_ends hpart.layout)
    (.after (requireChangeAccesses_issues length e) k))

theorem checkedChipErase_polls (hspi : spiStyle e) (k : PollsAt p op length e e' before rest) :
    PollsAt p (do requireFlash; requireSpiPart; requireSpiLayout; requireChangeAccesses; op)
      length e e' before rest :=
  have hpart := changeable_spi hspi
  .checked (requireFlash_ends hpart.part) (.checked (requireSpiPart_ends hspi.1)
    (.checked (requireSpiLayout_ends hpart.layout) (.after (requireChangeAccesses_issues length e) k)))

end

/-! ## Polls of the NOR parts -/

section
variable {length : Nat} {e e' : Engine} {a r : Word} {p : Poll} {before rest : List (Access × Word)}

/-- A poll of halfword reads at `a`. -/
def halfPoll (a : Word) (isReady : Word → Bool) : Poll where
  site := a
  turn v := [(.read .half a, v)]
  isReady := isReady

/-- DQ7 = 1 (44_flash_parallel.md R162). -/
def amdErasePoll (c : Params) (a : Word) : Poll :=
  halfPoll a fun v => (lane c.endian a v).getLsbD c.nor.amdReady

/-- SR.7 = 1 (R164, R167). -/
def bscPoll (c : Params) (a : Word) : Poll :=
  halfPoll a fun v => (lane c.endian a v).getLsbD c.nor.bscReady

/-- The half is read back (R166). -/
def readBackPoll (c : Params) (a : Word) (x : Half) : Poll :=
  halfPoll a fun v => decide (lane c.endian a v = x)

variable {c : Params}

theorem norRead_pollsAt {isReady : Word → Bool} {ready : Half → Bool}
    (hready : ∀ v, ready (lane e.cfg.endian a v) = isReady v) :
    PollsAt (halfPoll a isReady) (do let _ ← pollUntil a (norRead a) ready; pure ()) length e e [] [] := by
  refine pollUntil_pollsAt (p := halfPoll a isReady) (fun v e' hcfg _ => ?_) (fun _ => List.cons_ne_nil _ _) hready
  rw [← hcfg]
  exact norRead_issues length a v e'

/-! ### AMD-style parts -/

theorem waitAmdErase_polls (hc : e.cfg = c) : PollsAt (amdErasePoll c a) (waitAmdErase a) length e e [] [] :=
  .get (norRead_pollsAt fun _ => by rw [hc])

theorem eraseAmd_polls :
    PollsAt (amdErasePoll e.cfg a) (eraseAmd (partTable e) a) length e e
      (unlockItems e (partTable e).eraseSetup
        ++ [offsetItem e (partTable e).unlock1Offset (partTable e).unlock1,
          offsetItem e (partTable e).unlock2Offset (partTable e).unlock2, cycle a (partTable e).sectorErase]) [] := by
  unfold eraseAmd
  exact .listed (.next (amdUnlock_issues length (partTable e) e)
    (.next (amdEraseSetup_issues length (partTable e) _)
      (.next (amdUnlock_issues length (partTable e) _)
        (.next (amdSectorErase_issues length (partTable e) a _) (waitAmdErase_polls (by simp only [afterBus_cfg])))))) rfl rfl

theorem eraseBlock_polls_amd (hamd : amdStyle e) :
    PollsAt (amdErasePoll e.cfg a) (eraseBlock a) length e (bypassOff e)
      (exitItems e ++ unlockItems e (partTable e).eraseSetup
        ++ [offsetItem e (partTable e).unlock1Offset (partTable e).unlock1,
          offsetItem e (partTable e).unlock2Offset (partTable e).unlock2, cycle a (partTable e).sectorErase])
      (resetItems e) := by
  have erase := eraseAmd_polls (length := length) (e := afterBus length (exitItems e) (bypassOff e)) (a := a)
  have exitErase : PollsAt (amdErasePoll e.cfg a) (do bypassExit; eraseAmd (partTable e) a) length e (bypassOff e) _ _ :=
    .also (bypassExit_issues length e) (sameBus_bypassOff e) erase
  have byKind : PollsAt (amdErasePoll e.cfg a) (eraseByKind a) length e (bypassOff e) _ _ := .get (by
    rcases hamd with hk | hk
    · rw [partTable_amd hk] at exitErase
      simpa only [hk] using exitErase
    · rw [partTable_sst hk] at exitErase
      simpa only [hk] using exitErase)
  rw [List.append_assoc]
  exact byKind.andThen (sameBus_bypassOff e) fun items =>
    flashResetRead_amd_off (e := afterBus length items (bypassOff e)) length hamd rfl

/-- The cycles before the half itself, in bypass mode or not (44_flash_parallel.md R166). -/
def halfSetup (e : Engine) (bypass : Bool) : List (Access × Word) :=
  if bypass = true then [cycle e.flash.base (partTable e).bypassProgram] else unlockItems e (partTable e).program

theorem writeHalf_polls (x : Half) (hc : e.cfg = c) :
    PollsAt (readBackPoll c a x) (do
      norWrite a x
      let _ ← pollUntil a (norRead a) fun y => decide (y = x)
      pure ()) length e e [cycle a x] [] :=
  .next (norWrite_issues length a x e) (norRead_pollsAt fun _ => by rw [afterBus_cfg, hc])

theorem programHalfAmd_polls (x : Half) :
    PollsAt (readBackPoll e.cfg a x) (programHalfAmd a x) length e e
      (halfSetup e e.flash.bypassActive ++ [cycle a x]) [] := by
  refine .get (.after (partCommands_issues length e) ?_)
  rw [halfSetup]
  split
  · exact .next (amdBypassProgram_issues length (partTable e) e) (writeHalf_polls x rfl)
  · exact .listed (.next (amdUnlock_issues length (partTable e) e)
      (.next (amdProgram_issues length (partTable e) _) (writeHalf_polls x rfl))) rfl rfl

theorem sameBus_refl (e : Engine) : SameBus e e := ⟨rfl, rfl, rfl, rfl⟩

/-- The poll of the first half, before the second half. -/
theorem programHalves_polls_first {h : Half × Half} (hamd : amdStyle e)
    (hsecond : lane e.cfg.endian (a + 2#32) r = h.2) :
    PollsAt (readBackPoll e.cfg a h.1) (programHalves a h) length e e
      (halfSetup e e.flash.bypassActive ++ [cycle a h.1])
      (halfItemsAmd e e.flash.bypassActive (a + 2#32) h.2 r
        ++ (if e.flash.bypassActive = true then [] else resetItems e)) :=
  (programHalfAmd_polls h.1).andThen (sameBus_refl e) fun items =>
    .next (programHalfAmd_issues (e := afterBus length items e) length hsecond) (endProgram_issues length (by exact hamd))

/-- The poll of the second half, after the first half. -/
theorem programHalves_polls_second {h : Half × Half} (hamd : amdStyle e) (hfirst : lane e.cfg.endian a r = h.1) :
    PollsAt (readBackPoll e.cfg (a + 2#32) h.2) (programHalves a h) length e e
      (halfItemsAmd e e.flash.bypassActive a h.1 r ++ (halfSetup e e.flash.bypassActive ++ [cycle (a + 2#32) h.2]))
      (if e.flash.bypassActive = true then [] else resetItems e) :=
  .next (programHalfAmd_issues length hfirst)
    ((programHalfAmd_polls (e := afterBus length _ e) h.2).andThen (sameBus_refl _) fun items =>
      endProgram_issues (e := afterBus length items (afterBus length _ e)) length hamd)

/-- Before the halves, bypass mode is as opt_bypass wants it (44_flash_parallel.md R165). -/
theorem programWordAmd_polls {h : Half × Half}
    (k : PollsAt p (programHalves a h) length (afterBus length (enterFirstItems e) (withBypass (programsInBypass e) e))
      (afterBus length (enterFirstItems e) (withBypass (programsInBypass e) e)) before rest) :
    PollsAt p (programWordAmd a h) length e (withBypass (programsInBypass e) e) (enterFirstItems e ++ before) rest := by
  rw [programWordAmd_eq]
  refine .get ?_
  by_cases hopt : e.options.bypass = true
  · have entered : programsInBypass e = true := by simp [programsInBypass, hopt]
    rw [entered, enterFirstItems, if_pos hopt] at k ⊢
    rw [if_pos hopt]
    exact .also (bypassEnter_issues length e) (sameBus_bypassOn e) k
  · have kept : programsInBypass e = e.flash.bypassActive := by simp [programsInBypass, hopt]
    rw [kept, enterFirstItems, if_neg hopt, withBypass_same, afterBus_nil] at k
    rw [kept, enterFirstItems, if_neg hopt, if_neg hopt, withBypass_same, List.nil_append]
    exact k

theorem programWord_polls_amd {w : Word} (hamd : amdStyle e)
    (k : PollsAt p (programWordAmd a (programOrder e w)) length e e' before rest) :
    PollsAt p (programWord a w) length e e' before rest := by
  refine .get ?_
  rw [halvesOf_eq_programOrder]
  rcases hamd with hk | hk <;> simpa only [hk] using k

/-! ### Intel-style parts -/

theorem waitBscReady_polls (hc : e.cfg = c) : PollsAt (bscPoll c a) (waitBscReady a) length e e [] [] :=
  .get (norRead_pollsAt fun _ => by rw [hc])

/-- The cycles of the unlock stage of a block erase (44_flash_parallel.md R164). -/
def bscUnlockItems (c : Params) (a : Word) : List (Access × Word) :=
  [cycle a c.bsc.clearStatus, cycle a c.bsc.unlockSetup, cycle a c.bsc.confirm, cycle a c.bsc.readStatus]

/-- The cycles of its erase stage. -/
def bscEraseItems (c : Params) (a : Word) : List (Access × Word) :=
  [cycle a c.bsc.clearStatus, cycle a c.bsc.eraseSetup, cycle a c.bsc.confirm, cycle a c.bsc.readStatus]

/-- A block erase is its two stages, each with its poll. -/
def eraseBscStage (a : Word) : Op Unit := do
  bscClearStatus a
  bscEraseSetup a
  bscConfirm a
  bscReadStatus a
  waitBscReady a

theorem eraseBsc_eq (a : Word) : eraseBsc a = (do
    bscClearStatus a
    bscUnlockSetup a
    bscConfirm a
    bscReadStatus a
    waitBscReady a
    eraseBscStage a) := rfl

theorem eraseBscStage_issues (h : (lane e.cfg.endian a r).getLsbD e.cfg.nor.bscReady = true) :
    Issues (eraseBscStage a) length e (bscEraseItems e.cfg a ++ [(.read .half a, r)]) ()
      (afterBus length (bscEraseItems e.cfg a ++ [(.read .half a, r)]) e) :=
  .listed (.next (bscClearStatus_issues length a e) (.next (bscEraseSetup_issues length a _)
    (.next (bscConfirm_issues length a _) (.next (bscReadStatus_issues length a _)
      (waitBscReady_issues length a r _ (by simpa only [afterBus_cfg] using h)))))) rfl

theorem eraseBscStage_polls (hc : e.cfg = c) :
    PollsAt (bscPoll c a) (eraseBscStage a) length e e (bscEraseItems c a) [] := by
  subst hc
  exact .next (bscClearStatus_issues length a e) (.next (bscEraseSetup_issues length a _)
    (.next (bscConfirm_issues length a _) (.next (bscReadStatus_issues length a _)
      (waitBscReady_polls (by simp only [afterBus_cfg])))))

/-- What comes after the unlock stage's cycles: its poll, and the erase stage. -/
theorem eraseBsc_polls
    (k : ∀ e₁ : Engine, e₁.cfg = e.cfg →
      PollsAt p (do waitBscReady a; eraseBscStage a) length e₁ e₁ before rest) :
    PollsAt p (eraseBsc a) length e e (bscUnlockItems e.cfg a ++ before) rest := by
  rw [eraseBsc_eq]
  exact .listed (.next (bscClearStatus_issues length a e) (.next (bscUnlockSetup_issues length a _)
    (.next (bscConfirm_issues length a _) (.next (bscReadStatus_issues length a _)
      (k _ (by simp only [afterBus_cfg])))))) rfl rfl

theorem eraseBlock_polls_bsc (hbsc : bscStyle e) (k : PollsAt p (eraseBsc a) length e e before rest) :
    PollsAt p (eraseBlock a) length e e before (rest ++ resetItems e) := by
  have byKind : PollsAt p (eraseByKind a) length e e before rest :=
    .get (by rcases hbsc with hk | hk <;> simpa only [hk] using k)
  exact byKind.andThen (sameBus_refl e) fun items => flashResetRead_bsc length (afterBus length items e) hbsc

/-- The poll of the unlock stage. -/
theorem eraseBlock_polls_bsc_unlock (hbsc : bscStyle e)
    (hdone : (lane e.cfg.endian a r).getLsbD e.cfg.nor.bscReady = true) :
    PollsAt (bscPoll e.cfg a) (eraseBlock a) length e e (bscUnlockItems e.cfg a)
      (bscEraseItems e.cfg a ++ [(.read .half a, r)] ++ resetItems e) := by
  refine eraseBlock_polls_bsc hbsc ((eraseBsc_polls (before := []) fun e₁ hc => ?_).listed (List.append_nil _) rfl)
  rw [← hc] at hdone ⊢
  exact (waitBscReady_polls rfl).andThen (sameBus_refl e₁) fun items =>
    eraseBscStage_issues (e := afterBus length items e₁) hdone

/-- The poll of the erase stage. -/
theorem eraseBlock_polls_bsc_erase (hbsc : bscStyle e)
    (hdone : (lane e.cfg.endian a r).getLsbD e.cfg.nor.bscReady = true) :
    PollsAt (bscPoll e.cfg a) (eraseBlock a) length e e
      (bscUnlockItems e.cfg a ++ [(.read .half a, r)] ++ bscEraseItems e.cfg a) (resetItems e) := by
  rw [List.append_assoc]
  refine eraseBlock_polls_bsc (rest := []) hbsc (eraseBsc_polls fun e₁ hc => ?_)
  rw [← hc] at hdone ⊢
  exact .next (waitBscReady_issues length a r e₁ hdone) (eraseBscStage_polls rfl)

theorem programHalfBsc_polls (x : Half) (hc : e.cfg = c) :
    PollsAt (bscPoll c a) (programHalfBsc a x) length e e
      [cycle a c.bsc.clearStatus, cycle a c.bsc.programSetup, cycle a x] [] := by
  subst hc
  exact .next (bscClearStatus_issues length a e) (.next (bscProgramSetup_issues length a _)
    (.next (norWrite_issues length a x _) (waitBscReady_polls (by simp only [afterBus_cfg]))))

theorem programWord_polls_bsc {w : Word} (hbsc : bscStyle e)
    (k : PollsAt p (programWordBsc a (programOrder e w)) length e e before rest) :
    PollsAt p (programWord a w) length e e before rest := by
  refine .get ?_
  rw [halvesOf_eq_programOrder]
  rcases hbsc with hk | hk <;> simpa only [hk] using k

/-- The poll of the first half, before the second half. -/
theorem programWordBsc_polls_first {h : Half × Half} (hbsc : bscStyle e)
    (hdone : (lane e.cfg.endian (a + 2#32) r).getLsbD e.cfg.nor.bscReady = true) :
    PollsAt (bscPoll e.cfg a) (programWordBsc a h) length e e
      [cycle a e.cfg.bsc.clearStatus, cycle a e.cfg.bsc.programSetup, cycle a h.1]
      (halfItemsBsc e (a + 2#32) h.2 r ++ resetItems e) :=
  (programHalfBsc_polls h.1 rfl).andThen (sameBus_refl e) fun items =>
    .next (programHalfBsc_issues (e := afterBus length items e) length h.2 hdone)
      (flashResetRead_bsc length (afterBus length _ (afterBus length items e)) hbsc)

/-- The poll of the second half, after the first half. -/
theorem programWordBsc_polls_second {h : Half × Half} (hbsc : bscStyle e)
    (hdone : (lane e.cfg.endian a r).getLsbD e.cfg.nor.bscReady = true) :
    PollsAt (bscPoll e.cfg (a + 2#32)) (programWordBsc a h) length e e
      (halfItemsBsc e a h.1 r ++ [cycle (a + 2#32) e.cfg.bsc.clearStatus,
        cycle (a + 2#32) e.cfg.bsc.programSetup, cycle (a + 2#32) h.2]) (resetItems e) :=
  .next (programHalfBsc_issues length h.1 hdone)
    ((programHalfBsc_polls h.2 (by rw [afterBus_cfg])).andThen (sameBus_refl _) fun items =>
      flashResetRead_bsc length (afterBus length items (afterBus length _ e)) hbsc)

end

/-! ## Polls of the SPI controller -/

section
variable {length : Nat} {e e' : Engine} {l : SpiLayout} {free r : Word} {p : Poll}
  {before rest puts : List (Access × Word)}

/-- The controller is free (45_flash_spi.md R172). -/
def spiBusyPoll (l : SpiLayout) : Poll where
  site := l.ctrlReg
  turn v := [(.read .word l.ctrlReg, v)]
  isReady v := !v.getLsbD l.busyBit

/-- WIP = 0; each turn is an RDSR transaction (R173). -/
def spiWipPoll (c : Params) (l : SpiLayout) (free : Word) : Poll where
  site := l.dataReg
  turn := wipItems l free
  isReady v := !v.getLsbD c.wipBit

theorem spiWaitBusy_polls : PollsAt (spiBusyPoll l) (spiWaitBusy l) length e e [] [] :=
  pollUntil_pollsAt (p := spiBusyPoll l) (fun v e' _ _ => memRead_issues length l.ctrlReg v .word e')
    (fun _ => List.cons_ne_nil _ _) fun _ => rfl

/-- The busy poll of a transaction with neither address nor data. -/
theorem spiBare_polls (op : SpiOp) :
    PollsAt (spiBusyPoll l) (spiTransaction l op none none) length e e
      [(.write .word l.ctrlReg (l.start ||| spiCode l.code op), 0#32)] [] :=
  .after (.done length () e) (.after (.done length () e) (.next (spiStart_issues length l op e) spiWaitBusy_polls))

theorem spiWaitWip_polls {c : Params} (hfree : free.getLsbD l.busyBit = false) (hc : e.cfg = c) :
    PollsAt (spiWipPoll c l free) (spiWaitWip l) length e e [] [] := by
  refine .get (pollUntil_pollsAt (p := spiWipPoll c l free) (value := id)
    (fun v e' _ _ => spiQuery_issues length l .rdsr free v e' hfree) (fun _ => List.cons_ne_nil _ _) fun v => ?_)
  rw [hc]
  rfl

/-- The WIP poll of an operation that changes the part, after WREN and its transaction (R174, R175, R177). -/
theorem spiChange_polls {op : SpiOp} {addr data : Option Word} (hfree : free.getLsbD l.busyBit = false)
    (h : ∀ e, Issues (spiTransaction l op addr data) length e (puts ++ startItems l (spiCode l.code op) free) ()
      (afterBus length (puts ++ startItems l (spiCode l.code op) free) e)) :
    PollsAt (spiWipPoll e.cfg l free) (do
        spiTransaction l .wren none none
        spiTransaction l op addr data
        spiWaitWip l) length e e
      (startItems l l.code.wren free ++ puts ++ startItems l (spiCode l.code op) free) [] := by
  rw [List.append_assoc]
  exact .next (spiBare_issues length l .wren free e hfree) (.listed (.next (h _)
    (spiWaitWip_polls hfree (by simp only [afterBus_cfg]))) (List.append_nil _) rfl)

theorem withSpiLayout_polls {f : SpiLayout → Op Unit} (hl : e.session.spiLayout ≠ none)
    (k : PollsAt p (f (sessionLayout e)) length e e' before rest) :
    PollsAt p (withSpiLayout f) length e e' before rest := by
  refine .get ?_
  simp only [sessionLayout] at k
  cases hx : e.session.spiLayout with
  | none => exact absurd hx hl
  | some family =>
    rw [hx] at k
    cases family <;> exact k

/-- The busy poll of the first transaction of SPI_CHIP_ERASE. -/
theorem eraseSpiChip_polls_busy (hl : e.session.spiLayout ≠ none)
    (hfree : free.getLsbD (sessionLayout e).busyBit = false) (hwip : r.getLsbD e.cfg.wipBit = false) :
    PollsAt (spiBusyPoll (sessionLayout e)) eraseSpiChip length e e
      [(.write .word (sessionLayout e).ctrlReg ((sessionLayout e).start ||| (sessionLayout e).code.wren), 0#32)]
      (startItems (sessionLayout e) (sessionLayout e).code.be free ++ wipItems (sessionLayout e) free r) :=
  withSpiLayout_polls hl ((spiBare_polls .wren).andThen (sameBus_refl e) fun items =>
    .next (spiBare_issues length (sessionLayout e) .be free (afterBus length items e) hfree)
      (spiWaitWip_issues length (sessionLayout e) free r (afterBus length _ (afterBus length items e)) hfree hwip))

theorem eraseSpiChip_polls_wip (hl : e.session.spiLayout ≠ none)
    (hfree : free.getLsbD (sessionLayout e).busyBit = false) :
    PollsAt (spiWipPoll e.cfg (sessionLayout e) free) eraseSpiChip length e e
      (startItems (sessionLayout e) (sessionLayout e).code.wren free ++ []
        ++ startItems (sessionLayout e) (sessionLayout e).code.be free) [] :=
  withSpiLayout_polls hl (spiChange_polls (op := .be) hfree fun e₁ =>
    spiBare_issues length (sessionLayout e) .be free e₁ hfree)

/-- Reset-to-read of an SPI part adds nothing (45_flash_spi.md R178). -/
theorem PollsAt.thenResetRead {op : Op Unit} (hk : e.flash.cmdType = some .spi)
    (k : PollsAt p op length e e before []) :
    PollsAt p (op >>= fun _ => flashResetRead) length e e before [] :=
  k.andThen (ys := []) (sameBus_refl e) fun items =>
    (flashResetRead_spi length (afterBus length items e) hk).congr rfl (afterBus_nil length _).symm

theorem eraseBlock_polls_spi (a : Word) (hspi : spiStyle e)
    (hfree : free.getLsbD (sessionLayout e).busyBit = false) :
    PollsAt (spiWipPoll e.cfg (sessionLayout e) free) (eraseBlock a) length e e
      (startItems (sessionLayout e) (sessionLayout e).code.wren free
        ++ [(.write .word (sessionLayout e).addrReg ((a - e.flash.base) &&& 0x00FFFFFF#32), 0#32)]
        ++ startItems (sessionLayout e) (sessionLayout e).code.se free) [] := by
  obtain ⟨hk, hl⟩ := hspi
  refine .thenResetRead hk (.get ?_)
  simp only [hk]
  exact .get (withSpiLayout_polls hl (spiChange_polls (op := .se) hfree fun e₁ =>
    spiAddressed_issues length (sessionLayout e) .se free _ e₁ hfree))

theorem programWord_polls_spi (a w : Word) (hspi : spiStyle e)
    (hfree : free.getLsbD (sessionLayout e).busyBit = false) :
    PollsAt (spiWipPoll e.cfg (sessionLayout e) free) (programWord a w) length e e
      (startItems (sessionLayout e) (sessionLayout e).code.wren free
        ++ [(.write .word (sessionLayout e).addrReg ((a - e.flash.base) &&& 0x00FFFFFF#32), 0#32),
          (.write .word (sessionLayout e).dataReg w, 0#32)]
        ++ startItems (sessionLayout e) (sessionLayout e).code.pp free) [] := by
  obtain ⟨hk, hl⟩ := hspi
  refine .get ?_
  simp only [hk]
  exact .thenResetRead hk (.get (withSpiLayout_polls hl (spiChange_polls (op := .pp) hfree fun e₁ =>
    spiFull_issues length (sessionLayout e) .pp free _ w e₁ hfree)))

end

/-! ## The commands -/

section
variable {length : Nat} {s : State} {p : Poll} {flash : Flash} {before rest : List (Access × Word)}

theorem PollsAt.eraseSite {ms : List ModuleId} (h : ready length s) (hpart : Changeable s.toEngine ms)
    (k : PollsAt p (eraseBlock s.regs.a) length s.toEngine { s.toEngine with flash := flash } before rest) :
    Machine.pollSite length s .flashEraseBlock p.site flash before p.turn p.isReady rest :=
  (checkedChange_polls hpart (.get k)).pollSite h rfl

theorem PollsAt.programSite {ms : List ModuleId} (h : ready length s) (hpart : Changeable s.toEngine ms)
    (k : PollsAt p (programWord s.regs.a s.regs.b) length s.toEngine { s.toEngine with flash := flash } before rest) :
    Machine.pollSite length s .flashProgramWord p.site flash before p.turn p.isReady rest :=
  (checkedChange_polls hpart (.get k)).pollSite h rfl

theorem PollsAt.chipEraseSite (h : ready length s) (hspi : spiStyle s.toEngine)
    (k : PollsAt p eraseSpiChip length s.toEngine s.toEngine before rest) :
    Machine.pollSite length s .spiChipErase p.site s.flash before p.turn p.isReady rest :=
  (checkedChipErase_polls hspi k).pollSite h rfl

end

/-- Settles O54: each site is the poll of its family's sequence, past the checks of the command. -/
theorem flashPolls : Obligations.FlashPolls := by
  rintro length s a b addr r free halves bypass e setup enter l h rfl rfl rfl rfl rfl rfl rfl rfl rfl
  refine ⟨fun hamd => ?amd, fun hbsc first second done hfirst hsecond hdone => ?bsc, fun hspi hfree => ?spi⟩
  case amd =>
    have hpart := changeable_nor (.inl hamd)
    refine ⟨(eraseBlock_polls_amd hamd).eraseSite h hpart, fun hr => ?first, fun hr => ?second⟩
    case first =>
      rw [List.append_assoc]
      exact (programWord_polls_amd hamd (programWordAmd_polls
        (programHalves_polls_first (e := afterBus length _ (withBypass _ s.toEngine)) hamd hr))).programSite h hpart
    case second =>
      simp only [List.append_assoc]
      exact (programWord_polls_amd hamd (programWordAmd_polls
        (programHalves_polls_second (e := afterBus length _ (withBypass _ s.toEngine)) hamd hr))).programSite h hpart
  case bsc =>
    obtain rfl : done = fun x v => (lane s.cfg.endian x v).getLsbD s.cfg.nor.bscReady := funext₂ hdone
    subst hfirst hsecond
    have hpart := changeable_nor (.inr hbsc)
    exact ⟨fun hr => ⟨(eraseBlock_polls_bsc_unlock hbsc hr).eraseSite h hpart,
        (eraseBlock_polls_bsc_erase hbsc hr).eraseSite h hpart,
        (programWord_polls_bsc hbsc (programWordBsc_polls_second hbsc hr)).programSite h hpart⟩,
      fun hr => (programWord_polls_bsc hbsc (programWordBsc_polls_first hbsc hr)).programSite h hpart⟩
  case spi =>
    have hpart := changeable_spi hspi
    have hl : s.session.spiLayout ≠ none := hspi.2
    refine ⟨fun hr => (eraseSpiChip_polls_busy hl hfree hr).chipEraseSite h hspi, ?_⟩
    simp only [List.forall_mem_cons, List.not_mem_nil, false_implies, implies_true, and_true]
    exact ⟨(eraseSpiChip_polls_wip hl hfree).chipEraseSite h hspi,
      (eraseBlock_polls_spi s.regs.a hspi hfree).eraseSite h hpart,
      (programWord_polls_spi s.regs.a s.regs.b hspi hfree).programSite h hpart⟩

end Sys2Proof.Machine
end
